-- ==== Sys2Proof/Word.lean ====
section
/-! DEFINITION. The two word types of the block (spec rule R7). -/

namespace Sys2Proof

/-- `u8` of rule R7: a byte, bit 0 the least significant. -/
abbrev Byte := BitVec 8

/-- `u32` of rule R7: a word, the width of every register (R6). -/
abbrev Word := BitVec 32

end Sys2Proof
end

