-- ==== Sys2Proof/Syntax.lean ====
section
/-! DEFINITION. The nine commands of the block (rule R72), its only instructions. -/

namespace Sys2Proof

/-- A command (R72). One constructor per row of spec/opcode_table.json. The only operand written in a command word is the byte
of `CRC.BYTE` (R73); every other operand is implicit. -/
inductive Instr where
  /-- `NOP` (R160). -/
  | nop
  /-- `RESET` (R161). -/
  | reset
  /-- `IN.CLR` (R162). -/
  | inClr
  /-- `CRC.INIT` (R97). -/
  | crcInit
  /-- `CRC.BYTE imm8` (R98). -/
  | crcByte (imm8 : Byte)
  /-- `CRC.FIN` (R99). -/
  | crcFin
  /-- `CRC32` (R100). -/
  | crc32
  /-- `CHUNK` (R114). -/
  | chunk
  /-- `ENCODE` (R144). -/
  | encode
  deriving DecidableEq, Repr

end Sys2Proof
end

