-- ==== Sys2Proof/Decode.lean ====
section
/-! DEFINITION. The encoding of commands (rules R70 to R76): the total decoder, the encoder written from the same table, and the
host's `decodeTableWord`. -/

namespace Sys2Proof

/-- Why a word decodes to no command (R75), by name. -/
inductive Reject where
  /-- `opcode` is not in the map of R72. -/
  | unmappedOpcode (op : BitVec 8)
  /-- The opcode is mapped but a bit that must be zero is set: in `zero`, or in `imm8` for a format `N` command. -/
  | strayBits (op : BitVec 8)
  deriving DecidableEq, Repr

/-- Bits 31:24 of a command word (R70). -/
def opcodeField (v : Word) : BitVec 8 := v.extractLsb' 24 8

/-- Bits 23:8 of a command word (R70), zero in every command. -/
def zeroField (v : Word) : BitVec 16 := v.extractLsb' 8 16

/-- Bits 7:0 of a command word (R70, R73). -/
def imm8Field (v : Word) : Byte := v.extractLsb' 0 8

/-- Format `N` (R71): bits 23:0 all zero, no operand. -/
def decodeN (i : Instr) (v : Word) : Except Reject Instr :=
  if zeroField v = 0 ∧ imm8Field v = 0 then .ok i else .error (.strayBits (opcodeField v))

/-- Format `B` (R71): bits 23:8 zero, the operand in bits 7:0. Only `CRC.BYTE` has it. -/
def decodeB (v : Word) : Except Reject Instr :=
  if zeroField v = 0 then .ok (.crcByte (imm8Field v)) else .error (.strayBits (opcodeField v))

/-- The decoder (R74): total, reads no state; every word it rejects is illegal (R75). -/
def decode (v : Word) : Except Reject Instr :=
  if opcodeField v = 0x00 then decodeN .nop v
  else if opcodeField v = 0x01 then decodeN .reset v
  else if opcodeField v = 0x02 then decodeN .inClr v
  else if opcodeField v = 0x10 then decodeN .crcInit v
  else if opcodeField v = 0x11 then decodeB v
  else if opcodeField v = 0x12 then decodeN .crcFin v
  else if opcodeField v = 0x13 then decodeN .crc32 v
  else if opcodeField v = 0x20 then decodeN .chunk v
  else if opcodeField v = 0x30 then decodeN .encode v
  else .error (.unmappedOpcode (opcodeField v))

/-- The column "opcode" of R72. -/
def Instr.opcode : Instr → BitVec 8
  | .nop => 0x00
  | .reset => 0x01
  | .inClr => 0x02
  | .crcInit => 0x10
  | .crcByte _ => 0x11
  | .crcFin => 0x12
  | .crc32 => 0x13
  | .chunk => 0x20
  | .encode => 0x30

/-- Bits 7:0 of a command's word: the operand of `CRC.BYTE`, zero in format `N` (R70, R71). -/
def Instr.operand : Instr → Byte
  | .crcByte imm8 => imm8
  | .nop | .reset | .inClr | .crcInit | .crcFin | .crc32 | .chunk | .encode => 0

/-- The word of a command (R70 to R72): opcode, sixteen zero bits, operand. -/
def encode (i : Instr) : Word := i.opcode ++ (0 : BitVec 16) ++ i.operand

/-- The word whose bits are the low `nbits` bits of `w`, every bit above them zero. A command is one word written whole to `CMD`
(R56, R70), so it has no byte order. -/
def tableWord (nbits w : Nat) : Word := BitVec.ofNat 32 (w % 2 ^ nbits)

/-- The instruction the decoder reads from the bits `w` (the host's question, asked of each row of the opcode table). -/
def decodeTableWord (nbits w : Nat) : Option Instr := (decode (tableWord nbits w)).toOption

end Sys2Proof
end

