-- ==== Sys2Proof/Config.lean ====
section
/-! DEFINITION. What an implementation fixes (rule R6) and the free values the spec leaves open: every one an opaque constant,
so that a theorem holds whatever it is. -/

namespace Sys2Proof

/-- The bytes half of the external DEFLATE unit (R129): a total function `deflate` with a left inverse `inflate`, a partial
function. Nothing else is known of it (R132). The field defaults only show that some such pair exists (Lean asks for that
before it accepts an opaque constant of this type): no proof can see which pair `Config.codec` is. -/
structure Codec where
  /-- The success value of the unit as a function of the request (R129). -/
  deflate : List Byte → List Byte := fun r => r
  /-- A standard zlib/DEFLATE decoder (R6, R129); `none` where it rejects. -/
  inflate : List Byte → Option (List Byte) := fun c => some c
  /-- `inflate(deflate(r)) = r` for every `r` (R129). -/
  inflate_deflate : ∀ r, inflate (deflate r) = some r := by exact fun _ => rfl
  deriving Inhabited

/-- Whether one invocation of the DEFLATE unit fails: the failure draw of R6 and R130. -/
inductive DflAnswer where
  /-- The unit answers `ok(c)`, `c` being `deflate` of the request (R129). -/
  | ok
  /-- The unit answers `err(e)`, `e` a 32-bit error word of no stated meaning (R128, R130). -/
  | err (e : Word)
  deriving DecidableEq, Repr, Inhabited

/-- The codec of the DEFLATE unit (R129, decision D14). Log entry 3. -/
opaque Config.codec : Codec

/-- The free failure draw of the transaction with this index, counted from 0 (R130: "under no law"), used where State lists no answer.
Log entry 4. -/
opaque Config.dflDraw : Nat → DflAnswer

/-- `IBUF_CAP - 1`: any number below `2^32 - 1` (R6, decision D4). Log entry 5. -/
opaque Config.ibufCapPred : Fin 4294967295

/-- `IBUF_CAP`, the capacity of the input buffer in bytes, `1 <= IBUF_CAP <= 2^32 - 1` (R6). -/
def Config.ibufCap : Nat := Config.ibufCapPred.val + 1

/-- `BASE`, where the register space sits in the host's address map (R6, R51); no rule depends on it. Log entry 6. -/
opaque Config.base : Nat

end Sys2Proof
end

