-- ==== Sys2Proof/Machine/Action.lean ====
section
/-! DEFINITION. What the host can do to the block (rules R10, R59, R206) and the names of the fifteen registers (R36). -/

namespace Sys2Proof.Machine

/-- How much one host access moves. Only `word` belongs to the interface (R59). -/
inductive AccessSize where
  | byte
  | half
  | word
  | double
  deriving DecidableEq, Repr

/-- One action of the host (R10). An access names its size and its offset as the host gives them, so that the accesses R59 shuts
out can be written down (and are then refused). -/
inductive HostAction where
  /-- `RegWrite(off, v)`. -/
  | regWrite (size : AccessSize) (off : Nat) (v : Word)
  /-- `RegRead(off)`. -/
  | regRead (size : AccessSize) (off : Nat)
  /-- `HardReset`, the reset input (R200). -/
  | hardReset
  /-- The host does nothing. -/
  | nothing
  deriving DecidableEq, Repr

/-- The fifteen registers of the map of R36. -/
inductive Reg where
  | cmd
  | status
  | cause
  | expect0
  | expect1
  | expect2
  | actual
  | crc
  | result
  | width
  | height
  | tag
  | ilen
  | idata
  | cap
  deriving DecidableEq, Repr

/-- The column "access" of R36. -/
inductive RegAccess where
  /-- Host reads and writes. -/
  | rw
  /-- Host reads, writes are ignored. -/
  | ro
  /-- Host writes, reads return 0. -/
  | wo
  deriving DecidableEq, Repr

/-- The byte offset of a register (R36). -/
def Reg.offset : Reg → Nat
  | .cmd => 0x00
  | .status => 0x04
  | .cause => 0x08
  | .expect0 => 0x0C
  | .expect1 => 0x10
  | .expect2 => 0x14
  | .actual => 0x18
  | .crc => 0x1C
  | .result => 0x20
  | .width => 0x24
  | .height => 0x28
  | .tag => 0x2C
  | .ilen => 0x30
  | .idata => 0x34
  | .cap => 0x38

/-- The access rights of a register (R36). -/
def Reg.access : Reg → RegAccess
  | .cmd | .idata => .wo
  | .width | .height | .tag => .rw
  | .status | .cause | .expect0 | .expect1 | .expect2 | .actual | .crc | .result | .ilen | .cap => .ro

/-- The fifteen registers, in the order of R36. -/
def Reg.all : List Reg :=
  [.cmd, .status, .cause, .expect0, .expect1, .expect2, .actual, .crc, .result, .width, .height, .tag, .ilen, .idata, .cap]

/-- The register at an offset; `none` at a reserved offset, `0x3C` to `0xFC` (R29, R36), and outside the map. -/
def regAt (off : Nat) : Option Reg := Reg.all.find? fun r => r.offset == off

/-- An access of the interface (R59): one whole word, aligned, at an offset from `0x00` to `0xFC`. -/
def accessLegal (size : AccessSize) (off : Nat) : Bool :=
  decide (size = .word) && decide (off % 4 = 0) && decide (off ≤ 0xFC)

/-- Writing a word to `CMD`, which issues the command it encodes (R34, R166). -/
def writeCmdAction (v : Word) : HostAction := .regWrite .word 0x00 v

/-- Writing a word to `IDATA`, which pushes its low byte (R35, R165). -/
def pushAction (v : Word) : HostAction := .regWrite .word 0x34 v

end Sys2Proof.Machine
end

