-- ==== Sys2Proof/Machine/State.lean ====
section
/-! DEFINITION. The state of the block (rules R20 to R43), the model's own record of what the host does and gets, the reasons a step can
stop, and the state after reset. -/

namespace Sys2Proof.Machine

/-- The value of `CAUSE[7:0]`, by name (R31, R176). -/
inductive Cause where
  | none
  | badDimension
  | lengthMismatch
  | compressFail
  | payloadOverflow
  | illegalCommand
  | inputOverflow
  deriving DecidableEq, Repr

/-- The sequencer's hidden phase register (R27, R145). -/
inductive Phase where
  | idle
  | chkDim
  | chkLen
  | scan
  | defl
  | chkPay
  | sig
  | ihdr
  | idat
  | iend
  deriving DecidableEq, Repr

/-- Reasons for the machine to stop. There is none: every fault of the block is a next state with `STATUS.FAULT` set (R181), and
every command terminates (R213). Log entry 10. -/
inductive Fault where
  deriving DecidableEq, Repr

/-- Reasons for a step to have no meaning. -/
inductive Refusal where
  /-- An arm of `exec` not written yet; no arm of this model raises it. Safe. -/
  | notModelled (mnemonic : String)
  /-- Raised by the register interface for an access that is not an aligned word inside `0x00` to `0xFC` (R59, R169). Safe: the spec
  gives such an access no meaning. -/
  | outsideInterface (size : AccessSize) (off : Nat)
  deriving DecidableEq, Repr

/-- The state. The first eleven fields are the block's own (R20, R27); `out` is the record of packets delivered (R38); the last four
are the model's: what the host has read and will do, the answers of the DEFLATE unit and the requests sent to it (R10, R50). -/
structure State where
  /-- `STATUS.FAULT` (R28, R30). -/
  fault : Bool
  /-- `CAUSE` (R31). -/
  cause : Cause
  /-- `EXPECT`, 66 bits (R32). -/
  expect : BitVec 66
  /-- `ACTUAL` (R33). -/
  actual : Word
  /-- `CRC`, the accumulated value, never complemented (R22). -/
  crc : Word
  /-- `RESULT`, the last finished checksum (R23). -/
  result : Word
  /-- `WIDTH` (R24). -/
  width : Word
  /-- `HEIGHT` (R25). -/
  height : Word
  /-- `TAG` (R26). -/
  tag : Word
  /-- `IBUF`, the input buffer; `ILEN` is its length (R39). -/
  ibuf : List Byte
  /-- `PHASE`, `IDLE` whenever the host can observe the block (R27). -/
  phase : Phase
  /-- `OUT`, the packets handed to the host, oldest first (R38). -/
  out : List (List Byte)
  /-- The values `RegRead` returned to the host, oldest first (R10). -/
  reads : List Word
  /-- What the host does next, oldest first (R10). -/
  todo : List HostAction
  /-- The DEFLATE unit's answers to come, oldest first (R10, R130). -/
  draws : List DflAnswer
  /-- The requests sent to the DEFLATE unit on the port `DFL`, oldest first (R50, R128); their number is the index of the next free
  draw (R130). -/
  sent : List (List Byte)
  deriving DecidableEq, Repr

/-- The state after reset (R43). The four fields of the model's own, and `out`, are empty (log entry 19). -/
def State.reset : State where
  fault := false
  cause := .none
  expect := 0
  actual := 0
  crc := 0xFFFFFFFF
  result := 0x00000000
  width := 0
  height := 0
  tag := 0
  ibuf := []
  phase := .idle
  out := []
  reads := []
  todo := []
  draws := []
  sent := []

end Sys2Proof.Machine
end

