-- ==== Sys2Proof/Machine/Flags.lean ====
section
/-! DEFINITION. The status, cause and expect registers as the words the host reads (rules R28 to R33, R176). -/

namespace Sys2Proof.Machine

/-- The code of a cause (R176). -/
def Cause.code : Cause → BitVec 8
  | .none => 0
  | .badDimension => 1
  | .lengthMismatch => 2
  | .compressFail => 3
  | .payloadOverflow => 4
  | .illegalCommand => 5
  | .inputOverflow => 6

/-- `STATUS` (R30): bit 0 `BUSY` hardwired 0, bit 1 `FAULT`, bits 31:2 hardwired 0. -/
def statusWord (s : State) : Word := if s.fault then 2 else 0

/-- `CAUSE` (R31): the code in bits 7:0, zero above. -/
def causeWord (s : State) : Word := s.cause.code.setWidth 32

/-- `EXPECT0` (R32): bits 31:0. -/
def expect0Word (s : State) : Word := s.expect.extractLsb' 0 32

/-- `EXPECT1` (R32): bits 63:32. -/
def expect1Word (s : State) : Word := s.expect.extractLsb' 32 32

/-- `EXPECT2` (R32): bits 65:64 in bits 1:0, zero above. -/
def expect2Word (s : State) : Word := (s.expect.extractLsb' 64 2).setWidth 32

end Sys2Proof.Machine
end

