-- ==== Sys2Proof/Machine/Ops.lean ====
section
/-! DEFINITION. The named operations on the state: one per register the spec lets anything write, the input buffer, the output stream,
fault entry (R181), and the two ways out of it, which are one (R183, R200, R201). -/

namespace Sys2Proof.Machine

/-- `CRC <- v`. -/
def State.setCrc (s : State) (v : Word) : State := { s with crc := v }

/-- `RESULT <- v`. -/
def State.setResult (s : State) (v : Word) : State := { s with result := v }

/-- `WIDTH <- v`. -/
def State.setWidth (s : State) (v : Word) : State := { s with width := v }

/-- `HEIGHT <- v`. -/
def State.setHeight (s : State) (v : Word) : State := { s with height := v }

/-- `TAG <- v`. -/
def State.setTag (s : State) (v : Word) : State := { s with tag := v }

/-- `IBUF <- b`. -/
def State.setIbuf (s : State) (b : List Byte) : State := { s with ibuf := b }

/-- `PHASE <- p`. -/
def State.setPhase (s : State) (p : Phase) : State := { s with phase := p }

/-- The whole packet `p` is handed to the host (R38; `emit` and `emit_last` of R9 in one). -/
def State.addPacket (s : State) (p : List Byte) : State := { s with out := s.out ++ [p] }

/-- The value a `RegRead` returns is recorded for the host (R10). -/
def State.addRead (s : State) (v : Word) : State := { s with reads := s.reads ++ [v] }

/-- What the host does next. -/
def State.setTodo (s : State) (as : List HostAction) : State := { s with todo := as }

/-- Whether the next DEFLATE transaction fails (R130): the answer listed, or the free draw where none is listed. -/
def State.nextDraw (s : State) : DflAnswer :=
  match s.draws with
  | [] => Config.dflDraw s.sent.length
  | a :: _ => a

/-- One DEFLATE transaction has been made: the whole buffer sent as one request, one answer used (R128). -/
def State.useDraw (s : State) (raw : List Byte) : State := { s with draws := s.draws.tail, sent := s.sent ++ [raw] }

/-- Fault entry, `raise Fault(cause, expect, actual)` (R181): the four fault registers and `PHASE`, and nothing else. -/
def State.raise (s : State) (c : Cause) (expect : Nat) (actual : Word) : State :=
  { s with fault := true, cause := c, expect := BitVec.ofNat 66 expect, actual := actual, phase := .idle }

/-- Reset (R43, R200, R201), the only return from a fault (R183): every piece of the block's state takes its reset value. What
is not the block's stays: packets delivered (R202), values read, the host's further actions, the DEFLATE unit. -/
def State.toReset (s : State) : State :=
  { State.reset with out := s.out, reads := s.reads, todo := s.todo, draws := s.draws, sent := s.sent }

/-- The fault state is absorbing (R168, R184): with `STATUS.FAULT = 1` the action is ignored, else its effect `t` happens. -/
def unlessFaulted (s t : State) : State := if s.fault then s else t

/-- `MemRead(IBUF, i, 1)` of R9: the byte at index `i`; `none` at `ILEN` and beyond, where there is no byte (R39). -/
def State.readByte (s : State) (i : Nat) : Option Byte := s.ibuf[i]?

/-- The input buffer keeps its form: at most `IBUF_CAP` bytes (R20, R39). A list of bytes has one form for each content. -/
def Memory.wf (ibuf : List Byte) : Bool := decide (ibuf.length ≤ Config.ibufCap)

end Sys2Proof.Machine
end

