-- ==== Sys2Proof/Machine/Operands.lean ====
section
/-! DEFINITION. The operand forms: big-endian numbers (R8, R53), the bytes a register holds (R57), the sizes of the checks (R8, R13 of
the decisions), the pixel layout (R52), and the register map as the host reads it (R36, R164). -/

namespace Sys2Proof.Machine

/-- `be32(v)` (R8): four bytes, most significant first. -/
def be32 (v : Word) : List Byte :=
  [v.extractLsb' 24 8, v.extractLsb' 16 8, v.extractLsb' 8 8, v.extractLsb' 0 8]

/-- A big-endian number of any length, as R113 reads one. -/
def readBe (bs : List Byte) : Nat := bs.foldl (fun n b => 256 * n + b.toNat) 0

/-- The four tag bytes on the output, `be32(TAG)` (R26, R57). -/
def tagBytes (s : State) : List Byte := be32 s.tag

/-- The pushed byte, `v[7:0]`; bits 31:8 are ignored (R57, R165). -/
def pushedByte (v : Word) : Byte := v.extractLsb' 0 8

/-- `ILEN` as a register (R35). -/
def ilenWord (s : State) : Word := BitVec.ofNat 32 s.ibuf.length

/-- `CAP` as a register, the constant `IBUF_CAP` (R35). -/
def capWord : Word := BitVec.ofNat 32 Config.ibufCap

/-- `4 * W * H`, exact (R8, R144). -/
def pixelBytes (w h : Word) : Nat := 4 * w.toNat * h.toNat

/-- The index in `IBUF` of channel `k` of the pixel at column `x`, row `y` (R52). -/
def pixelIndex (w : Word) (x y k : Nat) : Nat := (y * w.toNat + x) * 4 + k

/-- The value of a register as the host reads it (R36, R164); a write-only register reads 0. -/
def regValue (s : State) : Reg → Word
  | .cmd => 0
  | .status => statusWord s
  | .cause => causeWord s
  | .expect0 => expect0Word s
  | .expect1 => expect1Word s
  | .expect2 => expect2Word s
  | .actual => s.actual
  | .crc => s.crc
  | .result => s.result
  | .width => s.width
  | .height => s.height
  | .tag => s.tag
  | .ilen => ilenWord s
  | .idata => 0
  | .cap => capWord

/-- The value read at an offset (R164): a reserved offset reads 0. -/
def readAt (s : State) (off : Nat) : Word :=
  match regAt off with
  | some r => regValue s r
  | none => 0

/-- A packet on the output port (R38, R55): one byte a beat, the `last` mark on the final byte only. -/
def beats : List Byte → List (Byte × Bool)
  | [] => []
  | [b] => [(b, true)]
  | b :: c :: p => (b, false) :: beats (c :: p)

end Sys2Proof.Machine
end

