-- ==== Sys2Proof/Machine/Crc.lean ====
section
/-! DEFINITION. The CRC-32 engine: its functions (rules R90 to R96) and its four commands (R97 to R100). -/

namespace Sys2Proof.Machine

/-- `POLY` (R90). -/
def crcPoly : Word := 0xEDB88320

/-- The start value of a checksum (R94). -/
def crcStart : Word := 0xFFFFFFFF

/-- `crc_bit` (R91). -/
def crcBit (c : Word) : Word := if c.getLsbD 0 then (c >>> 1) ^^^ crcPoly else c >>> 1

/-- Exactly eight shifts (R92). -/
def crcShift8 (c : Word) : Word := crcBit (crcBit (crcBit (crcBit (crcBit (crcBit (crcBit (crcBit c)))))))

/-- `crc_byte` (R92): the byte enters bits 7:0 by xor, then eight shifts. -/
def crcByte (c : Word) (b : Byte) : Word := crcShift8 (c ^^^ b.setWidth 32)

/-- `crc_acc` (R93), left to right. -/
def crcAcc (c : Word) : List Byte → Word
  | [] => c
  | b :: s => crcAcc (crcByte c b) s

/-- `crc32` (R94). -/
def crc32 (s : List Byte) : Word := ~~~ (crcAcc crcStart s)

/-- Entry `T[n]` of the table of R96. -/
def crcTable (n : Byte) : Word := crcShift8 (n.setWidth 32)

/-- The table form of `crc_byte` (R96). -/
def crcByteTable (c : Word) (b : Byte) : Word := crcTable ((c ^^^ b.setWidth 32).extractLsb' 0 8) ^^^ (c >>> 8)

/-- The engine after one whole checksum over `m` (R100, R112, R114): `CRC` accumulated from the start value, `RESULT` its
complement. -/
def State.checksum (s : State) (m : List Byte) : State :=
  (s.setCrc (crcAcc crcStart m)).setResult (crc32 m)

/-- `CRC.INIT` (R97). -/
def execCrcInit (s : State) : Host.Outcome State Fault Refusal :=
  .next (unlessFaulted s (s.setCrc crcStart))

/-- `CRC.BYTE imm8` (R98). -/
def execCrcByte (imm8 : Byte) (s : State) : Host.Outcome State Fault Refusal :=
  .next (unlessFaulted s (s.setCrc (crcByte s.crc imm8)))

/-- `CRC.FIN` (R99). -/
def execCrcFin (s : State) : Host.Outcome State Fault Refusal :=
  .next (unlessFaulted s (s.setResult (~~~ s.crc)))

/-- `CRC32` (R100). -/
def execCrc32 (s : State) : Host.Outcome State Fault Refusal :=
  .next (unlessFaulted s (s.checksum s.ibuf))

end Sys2Proof.Machine
end

