-- ==== Sys2Proof/Machine/Framer.lean ====
section
/-! DEFINITION. The chunk framer: the chunk format (rule R111), its decoder (R113, used only to state the round trip) and the command
`CHUNK` (R114). -/

namespace Sys2Proof.Machine

/-- `be32(|p|) ++ t ++ p ++ be32(crc32(t ++ p))` (R111), for a payload whose length fits the field. -/
def frame (t p : List Byte) : List Byte :=
  be32 (BitVec.ofNat 32 p.length) ++ t ++ p ++ be32 (crc32 (t ++ p))

/-- `chunk(t, p)` (R111): `none` where the framer faults, a payload of `2^32` bytes or more. -/
def chunk (t p : List Byte) : Option (List Byte) :=
  if p.length < 2 ^ 32 then some (frame t p) else none

/-- PayloadOverflow as the framer raises it (R111, R177): the largest length the field can hold, twice. -/
def State.raisePayloadOverflow (s : State) : State := s.raise .payloadOverflow (2 ^ 32 - 1) 0xFFFFFFFF

/-- `unchunk(s)` (R113): the tag and the payload, where the length and the checksum agree. -/
def unchunk (s : List Byte) : Option (List Byte × List Byte) :=
  let n := readBe (s.take 4)
  let t := (s.drop 4).take 4
  let p := (s.drop 8).take n
  let k := readBe ((s.drop (8 + n)).take 4)
  if s.length = 12 + n ∧ k = (crc32 (t ++ p)).toNat then some (t, p) else none

/-- `CHUNK` on a block that is not faulted (R114). -/
def chunkBuffer (s : State) : State :=
  match chunk (tagBytes s) s.ibuf with
  | none => s.raisePayloadOverflow
  | some p => (s.checksum (tagBytes s ++ s.ibuf)).addPacket p

/-- `CHUNK` (R114). -/
def execChunk (s : State) : Host.Outcome State Fault Refusal :=
  .next (unlessFaulted s (chunkBuffer s))

end Sys2Proof.Machine
end

