-- ==== Sys2Proof/Machine/Scanline.lean ====
section
/-! DEFINITION. The raw-scanline framer (rules R120 to R124) and the port to the external DEFLATE unit (R126 to R131). -/

namespace Sys2Proof.Machine

/-- `row(y)` (R121): the filter byte 0, then the `4 * W` pixel bytes of the row. -/
def scanRow (w : Word) (pix : List Byte) (y : Nat) : List Byte :=
  (0x00 : Byte) :: (pix.drop (y * (4 * w.toNat))).take (4 * w.toNat)

/-- `scan(W, H, pix)` (R121): the rows in order, row 0 first. -/
def scan (w h : Word) (pix : List Byte) : List Byte :=
  (List.range h.toNat).flatMap (scanRow w pix)

/-- The row stride `L = 1 + 4 * W` (R121). -/
def rowStride (w : Word) : Nat := 1 + 4 * w.toNat

/-- `unscan(W, H, r)` (R122 d): the rows without their filter bytes. -/
def unscan (w h : Word) (r : List Byte) : List Byte :=
  (List.range h.toNat).flatMap fun y => (r.drop (y * rowStride w + 1)).take (4 * w.toNat)

/-- The unit's answer as the block receives it (R128). -/
inductive DflReply where
  | ok (c : List Byte)
  | err (e : Word)
  deriving DecidableEq, Repr

/-- `DFL(raw)` (R9, R128 to R130) with the codec `D` in the unit (R6): on success the bytes are `deflate` of the request alone. -/
def dflReply (D : Codec) (s : State) (raw : List Byte) : DflReply :=
  match s.nextDraw with
  | .ok => .ok (D.deflate raw)
  | .err e => .err e

end Sys2Proof.Machine
end

