-- ==== Sys2Proof/Machine/Png.lean ====
section
/-! DEFINITION. The PNG serializer: its constants (rules R140 to R142), the file (R143) and the command `ENCODE` as one step (R144). -/

namespace Sys2Proof.Machine

/-- `SIG` (R140). -/
def pngSig : List Byte := [137, 80, 78, 71, 13, 10, 26, 10]

/-- The tag "IHDR" (R142). -/
def tagIHDR : List Byte := [0x49, 0x48, 0x44, 0x52]

/-- The tag "IDAT" (R142). -/
def tagIDAT : List Byte := [0x49, 0x44, 0x41, 0x54]

/-- The tag "IEND" (R142). -/
def tagIEND : List Byte := [0x49, 0x45, 0x4E, 0x44]

/-- `ihdr(W, H)` (R141). -/
def ihdr (w h : Word) : List Byte := be32 w ++ be32 h ++ [8, 6, 0, 0, 0]

/-- `png(W, H, c)` (R143), for a compressed stream whose length fits the field. -/
def png (w h : Word) (c : List Byte) : List Byte :=
  pngSig ++ frame tagIHDR (ihdr w h) ++ frame tagIDAT c ++ frame tagIEND []

/-- The raw scanline buffer of the image in the block (R148). -/
def rawImage (s : State) : List Byte := scan s.width s.height s.ibuf

/-- A precondition fault (R146, R147, R177): `EXPECT` the exact size the buffer should have, `ACTUAL` the size it has. -/
def State.raiseSize (s : State) (c : Cause) : State := s.raise c (pixelBytes s.width s.height) (ilenWord s)

/-- What a successful `ENCODE` does (R144): one packet, and the engine as the IEND chunk leaves it. -/
def State.deliverPng (s : State) (c : List Byte) : State :=
  ((s.addPacket (png s.width s.height c)).setCrc 0x51BD9F7D).setResult 0xAE426082

/-- `ENCODE` on a block that is not faulted, with the codec `D` in the DEFLATE unit (R6, R144): the four tests in the order of R178,
then the packet. -/
def encodeImage (D : Codec) (s : State) : State :=
  if s.width = 0 ∨ s.height = 0 then s.raiseSize .badDimension
  else if s.ibuf.length ≠ pixelBytes s.width s.height then s.raiseSize .lengthMismatch
  else
    match dflReply D s (rawImage s) with
    | .err e => (s.useDraw (rawImage s)).raise .compressFail 0 e
    | .ok c =>
      if 2 ^ 32 ≤ c.length then (s.useDraw (rawImage s)).raisePayloadOverflow else (s.useDraw (rawImage s)).deliverPng c

/-- `ENCODE` (R144), with the block's own DEFLATE unit. -/
def execEncode (s : State) : Host.Outcome State Fault Refusal :=
  .next (unlessFaulted s (encodeImage Config.codec s))

end Sys2Proof.Machine
end

