-- ==== Sys2Proof/Machine/System.lean ====
section
/-! DEFINITION. The system commands `NOP`, `RESET`, `IN.CLR` (rules R160 to R162). -/

namespace Sys2Proof.Machine

/-- `NOP` (R160). -/
def execNop (s : State) : Host.Outcome State Fault Refusal :=
  .next (unlessFaulted s s)

/-- `RESET` (R161, R201), the one command a faulted block obeys (R184). -/
def execReset (s : State) : Host.Outcome State Fault Refusal :=
  .next s.toReset

/-- `IN.CLR` (R162). -/
def execInClr (s : State) : Host.Outcome State Fault Refusal :=
  .next (unlessFaulted s (s.setIbuf []))

end Sys2Proof.Machine
end

