-- ==== Sys2Proof/Machine/Dispatch.lean ====
section
/-! DEFINITION. One arm per command (rule R72): `exec i s` is what the block does when the word of `i` is written to `CMD` (R166). -/

namespace Sys2Proof.Machine

def exec (i : Instr) (s : State) : Host.Outcome State Fault Refusal :=
  match i with
  | .nop => Sys2Proof.Machine.execNop s
  | .reset => Sys2Proof.Machine.execReset s
  | .inClr => Sys2Proof.Machine.execInClr s
  | .crcInit => Sys2Proof.Machine.execCrcInit s
  | .crcByte imm8 => Sys2Proof.Machine.execCrcByte imm8 s
  | .crcFin => Sys2Proof.Machine.execCrcFin s
  | .crc32 => Sys2Proof.Machine.execCrc32 s
  | .chunk => Sys2Proof.Machine.execChunk s
  | .encode => Sys2Proof.Machine.execEncode s

end Sys2Proof.Machine
end

