-- ==== Sys2Proof/Machine/Bus.lean ====
section
/-! DEFINITION. The register interface: what each host action does (rules R10, R163 to R169, R200). -/

namespace Sys2Proof.Machine

/-- A push on a block that is not faulted, with a buffer of `cap` bytes (R6, R165). -/
def pushByte (cap : Nat) (s : State) (b : Byte) : State :=
  if s.ibuf.length = cap then s.raise .inputOverflow cap (BitVec.ofNat 32 cap) else s.setIbuf (s.ibuf ++ [b])

/-- A word written to `CMD` (R166): the command it encodes, or IllegalCommand with the word in `ACTUAL` (R180). -/
def writeCmd (v : Word) (s : State) : Host.Outcome State Fault Refusal :=
  match decode v with
  | .ok i => exec i s
  | .error _ => .next (unlessFaulted s (s.raise .illegalCommand 0 v))

/-- A word written at an aligned offset of the register space. Writes to read-only registers and to reserved offsets are
ignored (R167); in the fault state so is every other write but the word of `RESET` (R168, R184). -/
def writeAt (off : Nat) (v : Word) (s : State) : Host.Outcome State Fault Refusal :=
  match regAt off with
  | some .cmd => writeCmd v s
  | some .width => .next (unlessFaulted s (s.setWidth v))
  | some .height => .next (unlessFaulted s (s.setHeight v))
  | some .tag => .next (unlessFaulted s (s.setTag v))
  | some .idata => .next (unlessFaulted s (pushByte Config.ibufCap s (pushedByte v)))
  | some .status | some .cause | some .expect0 | some .expect1 | some .expect2 | some .actual | some .crc | some .result
  | some .ilen | some .cap | none => .next s

/-- What one host action does (R10). An access outside the interface is refused (R59, R169); a read changes nothing but the
host's record of what it has read (R60, R164). -/
def hostAct (a : HostAction) (s : State) : Host.Outcome State Fault Refusal :=
  match a with
  | .regWrite size off v => if accessLegal size off then writeAt off v s else .refused (.outsideInterface size off)
  | .regRead size off => if accessLegal size off then .next (s.addRead (readAt s off)) else .refused (.outsideInterface size off)
  | .hardReset => .next s.toReset
  | .nothing => .next s

/-- The next step of a block and its host: the oldest action still to be done is taken off the list and done, whole (R61, R62);
with none left nothing happens (R192). -/
def stepHost (s : State) : Host.Outcome State Fault Refusal :=
  match s.todo with
  | [] => .next s
  | a :: rest => hostAct a (s.setTodo rest)

/-- A run (R215): the actions in order, ending at the first that is refused. -/
def runActions : List HostAction → State → Host.Outcome State Fault Refusal
  | [], s => .next s
  | a :: as, s =>
    match hostAct a s with
    | .next t => runActions as t
    | .fault r => .fault r
    | .refused r => .refused r

end Sys2Proof.Machine
end

