-- ==== Sys2Proof/Machine/Step.lean ====
section
/-! DEFINITION. One step of the machine, and the host's way to have the next step run a given command word. -/

namespace Sys2Proof.Machine

/-- One step: one host action, done whole (rules R10, R62). -/
def step (s : State) : Host.Outcome State Fault Refusal := Sys2Proof.Machine.stepHost s

/-- The host's next action is to write the command word with these bits to `CMD` (log entry 1). -/
def State.withFetchWord (s : State) (nbits w : Nat) : State :=
  s.setTodo (writeCmdAction (tableWord nbits w) :: s.todo)

end Sys2Proof.Machine
end

