-- ==== Sys2Proof/WellFormed.lean ====
section
/-! DEFINITION. Which terms of the syntax are part of the interface: commands (all of them are), host actions (R59, R169) and the
registers an assembler line may write (R79). -/

namespace Sys2Proof

/-- Every term of `Instr` is a legal command: the one operand, the byte of `CRC.BYTE`, may be any byte (R73, R98), and a word with
a stray bit is no term of `Instr` at all (R75): the decoder refuses it. -/
def Instr.wellFormed : Instr → Bool
  | .nop | .reset | .inClr | .crcInit | .crcByte _ | .crcFin | .crc32 | .chunk | .encode => true

namespace Machine

/-- A host action of the interface: its access is an aligned word inside `0x00` to `0xFC` (R59); any other is refused (R169). -/
def HostAction.wellFormed : HostAction → Bool
  | .regWrite size off _ => accessLegal size off
  | .regRead size off => accessLegal size off
  | .hardReset | .nothing => true

/-- `WR` may name `WIDTH`, `HEIGHT` and `TAG` only (R79). -/
def Reg.writableByName (r : Reg) : Bool := decide (r.access = .rw)

end Machine
end Sys2Proof
end

