-- ==== Sys2Proof/Machine/Asm.lean ====
section
/-! DEFINITION. The assembler syntax of host programs (rules R79 to R81): a line, the host actions it stands for, its reading from text,
and the text of a bus action. No step reads it: it is how a list of host actions is written down. -/

namespace Sys2Proof.Machine

/-- One line of a host program (R79), or one pseudo-instruction (R80). -/
inductive AsmLine where
  /-- A command mnemonic with its operand: a write of its word to `CMD`. -/
  | command (i : Instr)
  /-- `WR <REG>, <value>`, for `WIDTH`, `HEIGHT`, `TAG` (`Reg.writableByName`). -/
  | wr (r : Reg) (v : Word)
  /-- `PUSH <byte>`; bits 31:8 of a wider value are ignored by the block (R57). -/
  | push (v : Word)
  /-- `RD <REG>`. -/
  | rd (r : Reg)
  /-- `LOAD b0, b1, ..., bk`. -/
  | load (bs : List Byte)
  /-- `CRC.STR b0, b1, ..., bk`. -/
  | crcStr (bs : List Byte)
  /-- `SETTAG "wxyz"`. -/
  | setTag (w x y z : Byte)
  /-- `SETDIM w, h`. -/
  | setDim (w h : Word)
  /-- `HRESET`. -/
  | hreset
  deriving DecidableEq, Repr

/-- A line the syntax admits: `WR` names `WIDTH`, `HEIGHT` or `TAG` only (R79). -/
def AsmLine.wellFormed : AsmLine → Bool
  | .wr r _ => r.writableByName
  | .command _ | .push _ | .rd _ | .load _ | .crcStr _ | .setTag _ _ _ _ | .setDim _ _ | .hreset => true

/-- A command is a write of its word to `CMD` (R79). -/
def commandAction (i : Instr) : HostAction := writeCmdAction (encode i)

/-- The host actions a line stands for, in order (R79, R80). -/
def AsmLine.actions : AsmLine → List HostAction
  | .command i => [commandAction i]
  | .wr r v => [.regWrite .word r.offset v]
  | .push v => [pushAction v]
  | .rd r => [.regRead .word r.offset]
  | .load bs => commandAction .inClr :: bs.map fun b => pushAction (b.setWidth 32)
  | .crcStr bs => bs.map fun b => commandAction (.crcByte b)
  | .setTag w x y z => [.regWrite .word Reg.tag.offset (w ++ x ++ y ++ z)]
  | .setDim w h => [.regWrite .word Reg.width.offset w, .regWrite .word Reg.height.offset h]
  | .hreset => [.hardReset]

/-- One hexadecimal digit, capitals above 9. -/
def hexDigit (n : Nat) : Char :=
  if n < 10 then Char.ofNat (48 + n) else Char.ofNat (55 + n)

/-- `k` hexadecimal digits of `n`, most significant first. -/
def hexDigits : Nat → Nat → List Char
  | 0, _ => []
  | k + 1, n => hexDigits k (n / 16) ++ [hexDigit (n % 16)]

/-- The text of a bus action (R81), `W off word` or `R off`, in capital hexadecimal digits, two of `off` and eight of the word. R81 fixes
no number of digits: DESIGN CHOICE, log entry 22. `HardReset` is no bus action, and an access outside the interface (R59) is none
either: they have no text, so two digits hold every `off` written and no two actions share a text. -/
def HostAction.busText : HostAction → Option String
  | .regWrite size off v =>
    if accessLegal size off then some (String.ofList ('W' :: ' ' :: hexDigits 2 off ++ ' ' :: hexDigits 8 v.toNat)) else none
  | .regRead size off => if accessLegal size off then some (String.ofList ('R' :: ' ' :: hexDigits 2 off)) else none
  | .hardReset | .nothing => none

/-- The characters without the blanks at both ends. -/
def trimBlanks (cs : List Char) : List Char :=
  ((cs.dropWhile (· = ' ')).reverse.dropWhile (· = ' ')).reverse

/-- The value of a digit in a base up to 16; hexadecimal digits in either case. -/
def digitValue (base : Nat) (c : Char) : Option Nat :=
  let n := c.toNat
  let v := if 48 ≤ n ∧ n ≤ 57 then n - 48 else if 65 ≤ n ∧ n ≤ 70 then n - 55 else if 97 ≤ n ∧ n ≤ 102 then n - 87 else 16
  if v < base then some v else none

/-- The digits read on from the value `acc`. -/
def digitsValue (base : Nat) : List Char → Nat → Option Nat
  | [], acc => some acc
  | c :: cs, acc =>
    match digitValue base c with
    | some d => digitsValue base cs (base * acc + d)
    | none => none

/-- A number of R79: decimal, or hexadecimal with `0x`. -/
def parseNat : List Char → Option Nat
  | [] => none
  | ['0', 'x'] => none
  | '0' :: 'x' :: cs => digitsValue 16 cs 0
  | cs => digitsValue 10 cs 0

/-- A number that fits a word. -/
def parseWord (cs : List Char) : Option Word :=
  (parseNat cs).bind fun n => if n < 2 ^ 32 then some (BitVec.ofNat 32 n) else none

/-- A number that fits a byte, 0 to 255 (R79). -/
def parseByte (cs : List Char) : Option Byte :=
  (parseNat cs).bind fun n => if n < 2 ^ 8 then some (BitVec.ofNat 8 n) else none

/-- A register's name (R36). -/
def parseReg (cs : List Char) : Option Reg :=
  if cs = "CMD".toList then some .cmd
  else if cs = "STATUS".toList then some .status
  else if cs = "CAUSE".toList then some .cause
  else if cs = "EXPECT0".toList then some .expect0
  else if cs = "EXPECT1".toList then some .expect1
  else if cs = "EXPECT2".toList then some .expect2
  else if cs = "ACTUAL".toList then some .actual
  else if cs = "CRC".toList then some .crc
  else if cs = "RESULT".toList then some .result
  else if cs = "WIDTH".toList then some .width
  else if cs = "HEIGHT".toList then some .height
  else if cs = "TAG".toList then some .tag
  else if cs = "ILEN".toList then some .ilen
  else if cs = "IDATA".toList then some .idata
  else if cs = "CAP".toList then some .cap
  else none

/-- The operands of a line: what stands between the commas, without blanks; none where nothing follows the mnemonic. -/
def splitOperands (cs : List Char) : List (List Char) :=
  if trimBlanks cs = [] then [] else (cs.splitOn ',').map trimBlanks

/-- A line read from its mnemonic and its operands (R72, R79, R80). -/
def parseMnemonic (m : List Char) (ops : List (List Char)) : Option AsmLine :=
  if m = "NOP".toList ∧ ops = [] then some (.command .nop)
  else if m = "RESET".toList ∧ ops = [] then some (.command .reset)
  else if m = "IN.CLR".toList ∧ ops = [] then some (.command .inClr)
  else if m = "CRC.INIT".toList ∧ ops = [] then some (.command .crcInit)
  else if m = "CRC.FIN".toList ∧ ops = [] then some (.command .crcFin)
  else if m = "CRC32".toList ∧ ops = [] then some (.command .crc32)
  else if m = "CHUNK".toList ∧ ops = [] then some (.command .chunk)
  else if m = "ENCODE".toList ∧ ops = [] then some (.command .encode)
  else if m = "HRESET".toList ∧ ops = [] then some .hreset
  else if m = "LOAD".toList then (ops.mapM parseByte).map .load
  else if m = "CRC.STR".toList ∧ ops ≠ [] then (ops.mapM parseByte).map .crcStr
  else
    match ops with
    | [a] =>
      if m = "CRC.BYTE".toList then (parseByte a).map fun b => .command (.crcByte b)
      else if m = "PUSH".toList then (parseWord a).map .push
      else if m = "RD".toList then (parseReg a).map .rd
      else if m = "SETTAG".toList then
        match a with
        | ['"', w, x, y, z, '"'] =>
          if w.toNat < 128 ∧ x.toNat < 128 ∧ y.toNat < 128 ∧ z.toNat < 128 then
            some (.setTag (BitVec.ofNat 8 w.toNat) (BitVec.ofNat 8 x.toNat) (BitVec.ofNat 8 y.toNat) (BitVec.ofNat 8 z.toNat))
          else none
        | _ => none
      else none
    | [a, b] =>
      if m = "WR".toList then
        (parseReg a).bind fun r => if r.writableByName then (parseWord b).map (.wr r) else none
      else if m = "SETDIM".toList then (parseWord a).bind fun w => (parseWord b).map (.setDim w)
      else none
    | _ => none

/-- A line of text (R79): a mnemonic, operands separated by commas, and a comment from `;` to the end of the line. R79 does not say how
text without a mnemonic is read (an empty line, or a comment alone, as the continuation lines of P2 and P4 in
95_test_vectors.md are): DESIGN CHOICE, log entry 16, it is no line, `none`, and a listing is its other lines. -/
def parseLine (text : String) : Option AsmLine :=
  let cs := trimBlanks (text.toList.takeWhile (· ≠ ';'))
  parseMnemonic (cs.takeWhile (· ≠ ' ')) (splitOperands (cs.dropWhile (· ≠ ' ')))

/-- A listing as the host actions it stands for: the lines in order (R79 to R81). -/
def assemble (lines : List AsmLine) : List HostAction := lines.flatMap AsmLine.actions

end Sys2Proof.Machine
end

