-- ==== Sys2Proof/Machine/Sequencer.lean ====
section
/-! DEFINITION. The small steps inside the block: the chunk framer byte by byte (rule R112) and the PNG sequencer phase by phase (R145 to
R154). The host never sees a state between them (R62); they have the effect of the one step of Machine/Png.lean (R155), which is
an obligation, and `exec` runs that one step. -/

namespace Sys2Proof.Machine

/-- The block inside one `ENCODE`: the state with its `PHASE`, the hidden buffers `RAW` and `CMP` (R40), and the packet under
construction (R9, R181). -/
structure Seq where
  st : State
  raw : List Byte
  cmp : List Byte
  pkt : List Byte
  deriving DecidableEq, Repr

/-- `emit(bs)` (R9): the bytes join the packet under construction. -/
def Seq.emit (q : Seq) (bs : List Byte) : Seq := { q with pkt := q.pkt ++ bs }

/-- Steps (4) and (5) of R112 for one byte: send it, and feed it to the engine. -/
def Seq.sendFed (q : Seq) (b : Byte) : Seq := { q.emit [b] with st := q.st.setCrc (crcByte q.st.crc b) }

/-- `emit_last()` (R9): the packet is closed and handed to the host. -/
def Seq.emitLast (q : Seq) : Seq := { q with st := q.st.addPacket q.pkt, pkt := [] }

/-- A phase that faults (R145, R181): the fault is entered and the packet under construction is discarded. -/
def Seq.abandon (q : Seq) (t : State) : Seq := { q with st := t, pkt := [] }

/-- `PHASE <- p`. -/
def Seq.go (q : Seq) (p : Phase) : Seq := { q with st := q.st.setPhase p }

/-- Step (6) of R112: the checksum is finished and sent. -/
def Seq.sendCrc (q : Seq) : Seq :=
  { q with st := q.st.setResult (~~~ q.st.crc), pkt := q.pkt ++ be32 (~~~ q.st.crc) }

/-- Step (3) of R112: the engine starts a checksum. -/
def Seq.startCrc (q : Seq) : Seq := { q with st := q.st.setCrc crcStart }

/-- Steps (2) to (6) of R112: send the length, start the engine, send and feed tag then payload, finish. -/
def frameBody (t p : List Byte) (q : Seq) : Seq :=
  (p.foldl Seq.sendFed (t.foldl Seq.sendFed (q.emit (be32 (BitVec.ofNat 32 p.length))).startCrc)).sendCrc

/-- The chunk framer (R112): step (1), the length check, before anything is sent, then the chunk. The sequencer makes that check once
for the file, early, in phase `CHK_PAY` (R150). -/
def frameUnit (t p : List Byte) (q : Seq) : Seq :=
  if 2 ^ 32 ≤ p.length then q.abandon q.st.raisePayloadOverflow else frameBody t p q

/-- One phase of the sequencer (R145 to R154), with the codec `D` in the DEFLATE unit. -/
def phaseStep (D : Codec) (q : Seq) : Seq :=
  match q.st.phase with
  | .idle => q
  | .chkDim =>
    if q.st.width = 0 ∨ q.st.height = 0 then q.abandon (q.st.raiseSize .badDimension) else q.go .chkLen
  | .chkLen =>
    if q.st.ibuf.length ≠ pixelBytes q.st.width q.st.height then q.abandon (q.st.raiseSize .lengthMismatch) else q.go .scan
  | .scan => Seq.go { q with raw := rawImage q.st } .defl
  | .defl =>
    match dflReply D q.st q.raw with
    | .err e => q.abandon ((q.st.useDraw q.raw).raise .compressFail 0 e)
    | .ok c => Seq.go { q with st := q.st.useDraw q.raw, cmp := c } .chkPay
  | .chkPay => if 2 ^ 32 ≤ q.cmp.length then q.abandon q.st.raisePayloadOverflow else q.go .sig
  | .sig => (q.emit pngSig).go .ihdr
  | .ihdr => (frameBody tagIHDR (ihdr q.st.width q.st.height) q).go .idat
  | .idat => (frameBody tagIDAT q.cmp q).go .iend
  | .iend => (frameBody tagIEND [] q).emitLast.go .idle

/-- `n` phases one after the other. -/
def runPhases (D : Codec) : Nat → Seq → Seq
  | 0, q => q
  | n + 1, q => runPhases D n (phaseStep D q)

/-- The phase after a phase, in the order of R27 and R145. -/
def Phase.after : Phase → Phase
  | .idle => .idle
  | .chkDim => .chkLen
  | .chkLen => .scan
  | .scan => .defl
  | .defl => .chkPay
  | .chkPay => .sig
  | .sig => .ihdr
  | .ihdr => .idat
  | .idat => .iend
  | .iend => .idle

/-- The sequencer as an `ENCODE` command starts it (R145): phase `CHK_DIM`, nothing sent, whatever the hidden buffers held. -/
def startEncode (s : State) (raw cmp : List Byte) : Seq := { st := s.setPhase .chkDim, raw := raw, cmp := cmp, pkt := [] }

end Sys2Proof.Machine
end

