-- ==== Sys2Proof/Safety.lean ====
section
/-! DEFINITION. What a safe run is (rule R215), and the invariants of the block that claims are stated with. -/

namespace Sys2Proof.Machine

/-- A run has gone wrong if `STATUS.FAULT = 1` at its end or it contains an action the model refuses (R215). -/
def goneWrong : Host.Outcome State Fault Refusal → Bool
  | .next t => t.fault
  | .fault _ | .refused _ => true

/-- What `EXPECT` and `ACTUAL` hold for the cause recorded (R177), and that the cause holds of the state: the fault state is
absorbing (R184), so what was true when the fault was raised still is. -/
def State.faultRecord (s : State) : Prop :=
  match s.cause with
  | .none => s.expect = 0 ∧ s.actual = 0
  | .badDimension => (s.width = 0 ∨ s.height = 0) ∧ s.expect = 0 ∧ s.actual = ilenWord s
  | .lengthMismatch =>
    s.width ≠ 0 ∧ s.height ≠ 0 ∧ s.ibuf.length ≠ pixelBytes s.width s.height ∧
      s.expect.toNat = pixelBytes s.width s.height ∧ s.actual = ilenWord s
  | .compressFail => s.width ≠ 0 ∧ s.height ≠ 0 ∧ s.ibuf.length = pixelBytes s.width s.height ∧ s.expect = 0
  | .payloadOverflow =>
    s.width ≠ 0 ∧ s.height ≠ 0 ∧ s.ibuf.length = pixelBytes s.width s.height ∧
      2 ^ 32 ≤ (Config.codec.deflate (rawImage s)).length ∧ s.expect.toNat = 2 ^ 32 - 1 ∧ s.actual.toNat = 2 ^ 32 - 1
  | .illegalCommand => s.expect = 0 ∧ (decode s.actual).toOption = none
  | .inputOverflow =>
    s.ibuf.length = Config.ibufCap ∧ s.expect.toNat = Config.ibufCap ∧ s.actual.toNat = Config.ibufCap

/-- The invariant of the block between host actions. -/
structure State.Inv (s : State) : Prop where
  /-- `ILEN <= IBUF_CAP` (R20). -/
  bufferFits : Memory.wf s.ibuf = true
  /-- `PHASE` is `IDLE` whenever the host can observe the block (R27). -/
  phaseIdle : s.phase = .idle
  /-- `CAUSE` is 0 exactly when `STATUS.FAULT` is 0 (R31). -/
  faultIffCause : s.fault = true ↔ s.cause ≠ .none
  /-- The fault registers describe the fault (R177, R184). -/
  record : s.faultRecord

/-- A chunk as `CHUNK` emits it (R111, R114). -/
def IsChunkPacket (p : List Byte) : Prop :=
  ∃ t payload : List Byte, t.length = 4 ∧ payload.length < 2 ^ 32 ∧ p = frame t payload

/-- A PNG file as `ENCODE` emits it: of some image of the right size (R143, R144). -/
def IsPngPacket (p : List Byte) : Prop :=
  ∃ (w h : Word) (pix : List Byte), w ≠ 0 ∧ h ≠ 0 ∧ pix.length = pixelBytes w h ∧
    (Config.codec.deflate (scan w h pix)).length < 2 ^ 32 ∧ p = png w h (Config.codec.deflate (scan w h pix))

/-- Every packet on the output stream is a whole chunk or a whole file (R38, R156). -/
def State.outWhole (s : State) : Prop := ∀ p ∈ s.out, IsChunkPacket p ∨ IsPngPacket p

/-- The block's own state, `OUT` with it, is the same in both: what a host action that is ignored leaves (R167, R184). Only the
model's record of the host and of the DEFLATE unit may differ. -/
def sameBlock (s t : State) : Prop :=
  t.fault = s.fault ∧ t.cause = s.cause ∧ t.expect = s.expect ∧ t.actual = s.actual ∧ t.crc = s.crc ∧ t.result = s.result ∧
    t.width = s.width ∧ t.height = s.height ∧ t.tag = s.tag ∧ t.ibuf = s.ibuf ∧ t.phase = s.phase ∧ t.out = s.out

end Sys2Proof.Machine
end

