-- ==== Sys2Proof/Certificates/Slice0/Obligations.lean ====
section
/-! DEFINITION. The statements for the provers, each with the rule of the spec it formalises. -/

open Sys2Proof Sys2Proof.Machine

/-! ### Encoding -/

/-- R74, R75, both directions: a word decodes to a command exactly when it is that command's word; so the encoder and the decoder
agree on every command with every operand, and each legal word has one meaning. -/
def Obligations.DecodeIffEncode : Prop :=
  ∀ (v : Word) (i : Instr), decode v = .ok i ↔ v = encode i

/-- R72, R74: the nine forms by their numbers, `CRC.BYTE` for each of its 256 bytes; every other word is rejected (R75). -/
def Obligations.DecoderAcceptsExactlyTheNineForms : Prop :=
  ∀ v : Word,
    (decode v = .ok .nop ↔ v.toNat = 0x00000000) ∧ (decode v = .ok .reset ↔ v.toNat = 0x01000000) ∧
    (decode v = .ok .inClr ↔ v.toNat = 0x02000000) ∧ (decode v = .ok .crcInit ↔ v.toNat = 0x10000000) ∧
    (∀ b : Byte, decode v = .ok (.crcByte b) ↔ v.toNat = 0x11000000 + b.toNat) ∧
    (decode v = .ok .crcFin ↔ v.toNat = 0x12000000) ∧ (decode v = .ok .crc32 ↔ v.toNat = 0x13000000) ∧
    (decode v = .ok .chunk ↔ v.toNat = 0x20000000) ∧ (decode v = .ok .encode ↔ v.toNat = 0x30000000) ∧
    ((decode v).toOption = none ↔
      ¬ (v.toNat ∈ [0x00000000, 0x01000000, 0x02000000, 0x10000000, 0x12000000, 0x13000000, 0x20000000, 0x30000000] ∨
        0x11000000 ≤ v.toNat ∧ v.toNat ≤ 0x110000FF))

/-- Words written out from R72 and section 2.8 of 95_test_vectors.md, legal and illegal. -/
def Obligations.SampleWordsDecode : Prop :=
  decodeTableWord 32 0x00000000 = some .nop ∧ decodeTableWord 32 0x01000000 = some .reset ∧
  decodeTableWord 32 0x02000000 = some .inClr ∧ decodeTableWord 32 0x10000000 = some .crcInit ∧
  decodeTableWord 32 0x11000031 = some (.crcByte 0x31) ∧ decodeTableWord 32 0x110000FF = some (.crcByte 0xFF) ∧
  decodeTableWord 32 0x12000000 = some .crcFin ∧ decodeTableWord 32 0x13000000 = some .crc32 ∧
  decodeTableWord 32 0x20000000 = some .chunk ∧ decodeTableWord 32 0x30000000 = some .encode ∧
  decode 0x00000001 = .error (.strayBits 0x00) ∧ decode 0x03000000 = .error (.unmappedOpcode 0x03) ∧
  decode 0x10000031 = .error (.strayBits 0x10) ∧ decode 0x11000100 = .error (.strayBits 0x11) ∧
  decode 0x30000001 = .error (.strayBits 0x30) ∧ decode 0xFFFFFFFF = .error (.unmappedOpcode 0xFF)

/-! ### The step and the register interface -/

/-- When the host's next action writes the word of a command to `CMD` (R166), the step is `exec` of that command, on the state with
that action taken off the host's list; so it is for a word placed by `withFetchWord`. The list is the model's own (log entry 1). -/
def Obligations.StepRunsTheDecodedCommand : Prop :=
  (∀ (s : State) (v : Word) (i : Instr) (rest : List HostAction), s.todo = .regWrite .word 0x00 v :: rest →
    decode v = .ok i → i.wellFormed = true → step s = exec i { s with todo := rest }) ∧
  (∀ (s : State) (w : Nat) (i : Instr), decodeTableWord 32 w = some i → i.wellFormed = true →
    step (s.withFetchWord 32 w) = exec i s)

/-- A step does the host's oldest action whole (R10, R61, R62), and nothing where there is none or where the action is to do nothing
(R192); so the steps of the machine play a list of host actions in order, ending as the run of R215 ends. The list is the
model's own (log entry 1). -/
def Obligations.StepsPlayTheActionList : Prop :=
  (∀ s : State, s.todo = [] → step s = .next s) ∧
  (∀ s : State, hostAct .nothing s = .next s) ∧
  (∀ (s : State) (a : HostAction) (rest : List HostAction), s.todo = a :: rest → step s = hostAct a { s with todo := rest }) ∧
  (∀ (as rest : List HostAction) (s : State),
    (∀ t : State, runActions as s = .next t → s.todo = rest →
      Sys2Proof.core.run as.length { s with todo := as ++ rest } = .next t) ∧
    (∀ r : Refusal, runActions as s = .refused r →
      Sys2Proof.core.run as.length { s with todo := as ++ rest } = .refused r))

/-- R62, R169, R213: an action of the interface always completes, in a next state, and every other is refused by name; so a program of
assembler lines the syntax of R79 admits is never refused. -/
def Obligations.LegalActionsCompleteOthersAreRefused : Prop :=
  (∀ (a : HostAction) (s : State), a.wellFormed = true → ∃ t, hostAct a s = .next t) ∧
  (∀ (s : State) (size : AccessSize) (off : Nat) (v : Word), ¬ (size = .word ∧ off % 4 = 0 ∧ off ≤ 0xFC) →
    hostAct (.regWrite size off v) s = .refused (.outsideInterface size off) ∧
    hostAct (.regRead size off) s = .refused (.outsideInterface size off)) ∧
  (∀ (ls : List AsmLine) (s : State), (∀ l ∈ ls, l.wellFormed = true) → ∃ t, runActions (assemble ls) s = .next t)

/-- R36: the offsets name the fifteen registers one to one, and the other aligned offsets, `0x3C` to `0xFC`, are reserved. -/
def Obligations.RegisterMapIsOneToOne : Prop :=
  (∀ (r : Reg) (off : Nat), regAt off = some r ↔ off = r.offset) ∧
  (∀ r : Reg, r.offset % 4 = 0 ∧ r.offset ≤ 0x38) ∧
  (∀ k : Nat, regAt (4 * k) = none ↔ 0x3C ≤ 4 * k)

/-- R164: what a read returns at each of the fifteen registers and at a reserved offset, in every state, the fault state
included; `CAUSE` reads the code R176 gives each cause; nothing else changes. The value goes on the model's list of values read (log
entry 8). -/
def Obligations.ReadsReturnTheRegisters : Prop :=
  ∀ s : State,
    (∀ p ∈ ([(0x00, 0), (0x04, if s.fault then 2 else 0), (0x08, match s.cause with
          | .none => 0 | .badDimension => 1 | .lengthMismatch => 2 | .compressFail => 3 | .payloadOverflow => 4
          | .illegalCommand => 5 | .inputOverflow => 6),
        (0x0C, BitVec.ofNat 32 s.expect.toNat), (0x10, BitVec.ofNat 32 (s.expect.toNat / 2 ^ 32)),
        (0x14, BitVec.ofNat 32 (s.expect.toNat / 2 ^ 64)), (0x18, s.actual), (0x1C, s.crc), (0x20, s.result),
        (0x24, s.width), (0x28, s.height), (0x2C, s.tag), (0x30, BitVec.ofNat 32 s.ibuf.length), (0x34, 0),
        (0x38, BitVec.ofNat 32 Config.ibufCap)] : List (Nat × Word)),
      hostAct (.regRead .word p.1) s = .next { s with reads := s.reads ++ [p.2] }) ∧
    (∀ off : Nat, off % 4 = 0 → 0x3C ≤ off → off ≤ 0xFC →
      hostAct (.regRead .word off) s = .next { s with reads := s.reads ++ [0] })

/-- R163: a write to `WIDTH`, `HEIGHT` or `TAG` stores the whole word, any word, and changes nothing else. -/
def Obligations.ArgumentRegistersTakeAnyWord : Prop :=
  ∀ (s : State) (v : Word), s.fault = false →
    hostAct (.regWrite .word 0x24 v) s = .next { s with width := v } ∧
    hostAct (.regWrite .word 0x28 v) s = .next { s with height := v } ∧
    hostAct (.regWrite .word 0x2C v) s = .next { s with tag := v }

/-- R167: a write to a read-only register or to a reserved offset changes nothing and raises no fault. -/
def Obligations.ReadOnlyAndReservedWritesAreIgnored : Prop :=
  ∀ (s : State) (off : Nat) (v : Word),
    off ∈ [0x04, 0x08, 0x0C, 0x10, 0x14, 0x18, 0x1C, 0x20, 0x30, 0x38] ∨ (off % 4 = 0 ∧ 0x3C ≤ off ∧ off ≤ 0xFC) →
    hostAct (.regWrite .word off v) s = .next s

/-- R165, R211: a push appends the low byte, or, with the buffer full, raises InputOverflow and stores nothing; pushes that fit append in
index order to what the buffer holds, and disturb nothing else. -/
def Obligations.PushAppendsTheLowByteOrOverflows : Prop :=
  (∀ (s : State) (v : Word), s.fault = false →
    (s.ibuf.length ≠ Config.ibufCap →
      hostAct (.regWrite .word 0x34 v) s = .next { s with ibuf := s.ibuf ++ [BitVec.ofNat 8 v.toNat] }) ∧
    (s.ibuf.length = Config.ibufCap →
      hostAct (.regWrite .word 0x34 v) s = .next
        { s with
          fault := true, cause := .inputOverflow, expect := BitVec.ofNat 66 Config.ibufCap
          actual := BitVec.ofNat 32 Config.ibufCap, phase := .idle })) ∧
  (∀ (s : State) (bs : List Byte), s.fault = false → s.ibuf.length + bs.length ≤ Config.ibufCap →
    runActions (bs.map fun b => .regWrite .word 0x34 (b.setWidth 32)) s = .next { s with ibuf := s.ibuf ++ bs })

/-- R180: a word that encodes nothing, written to `CMD`, raises IllegalCommand with the word in `ACTUAL`; nothing is executed. -/
def Obligations.IllegalWordsRaiseIllegalCommand : Prop :=
  ∀ (s : State) (v : Word), s.fault = false → (decode v).toOption = none →
    hostAct (.regWrite .word 0x00 v) s = .next
      { s with fault := true, cause := .illegalCommand, expect := 0, actual := v, phase := .idle }

/-! ### Reset -/

/-- R43, R161, R200, R201: the command and the reset input have one effect, in every state, the fault state included: every register
as the host reads it, the buffer, the phase; packets already delivered stay (R202); a fresh checksum can begin, and an
`ENCODE` before any setup is a BadDimension. -/
def Obligations.ResetGivesTheResetState : Prop :=
  decode 0x01000000 = .ok .reset ∧
  ∀ s : State, ∃ t : State,
    exec .reset s = .next t ∧ hostAct .hardReset s = .next t ∧ hostAct (.regWrite .word 0x00 0x01000000) s = .next t ∧
    (∀ r : Reg, regValue t r =
      if r = .crc then 0xFFFFFFFF else if r = .cap then BitVec.ofNat 32 Config.ibufCap else 0) ∧
    t.fault = false ∧ t.cause = .none ∧ t.expect = 0 ∧ t.ibuf = [] ∧ t.phase = .idle ∧ t.out = s.out ∧
    exec .encode t = .next { t with fault := true, cause := .badDimension, expect := 0, actual := 0 }

/-- R43: the state a run starts from is the state reset leaves; the fields of the model's own are empty in it (log entry 19). -/
def Obligations.ResetStateIsWhatResetLeaves : Prop :=
  ∀ s : State, exec .reset s = .next
    { State.reset with out := s.out, reads := s.reads, todo := s.todo, draws := s.draws, sent := s.sent }

/-! ### System commands -/

/-- R160: `NOP`, the word 0, changes nothing in any state. -/
def Obligations.NopChangesNothing : Prop :=
  decode 0x00000000 = .ok .nop ∧ ∀ s : State, exec .nop s = .next s

/-- R162: `IN.CLR` empties the buffer and changes nothing else; `ILEN` then reads 0. -/
def Obligations.InClrEmptiesTheBuffer : Prop :=
  decode 0x02000000 = .ok .inClr ∧
  ∀ s : State, s.fault = false → exec .inClr s = .next { s with ibuf := [] } ∧ regValue { s with ibuf := [] } .ilen = 0

/-! ### The CRC engine -/

/-- R91 on numbers: halve, and xor the polynomial in when the number was odd. The spec marks this reading of the shift as its own, from
general knowledge (G1; log entry 20). -/
def Obligations.CrcBitHalvesAndXors : Prop :=
  ∀ c : Word,
    (c.toNat % 2 = 1 → (crcBit c).toNat = (c.toNat / 2) ^^^ 0xEDB88320) ∧
    (c.toNat % 2 = 0 → (crcBit c).toNat = c.toNat / 2)

/-- R96: the table form of the byte step, the table as eight shifts of its index, and the four entries the rule prints. -/
def Obligations.CrcTableFormAgrees : Prop :=
  (∀ (c : Word) (b : Byte), crcByte c b = crcTable ((c ^^^ b.setWidth 32).extractLsb' 0 8) ^^^ (c >>> 8)) ∧
  (∀ n : Byte, crcTable n = Nat.repeat crcBit 8 (n.setWidth 32)) ∧
  crcTable 0 = 0x00000000 ∧ crcTable 1 = 0x77073096 ∧ crcTable 128 = 0xEDB88320 ∧ crcTable 255 = 0x2D02EF8D

/-- R93: the accumulation goes left to right from index 0, so a message may be fed in pieces. -/
def Obligations.CrcAccumulatesInPieces : Prop :=
  (∀ c : Word, crcAcc c [] = c) ∧ (∀ (c : Word) (b : Byte) (s : List Byte), crcAcc c (b :: s) = crcAcc (crcByte c b) s) ∧
  (∀ (c : Word) (s t : List Byte), crcAcc c (s ++ t) = crcAcc (crcAcc c s) t)

/-- The values of R95 (e) and of section 2.1 of 95_test_vectors.md, the corrected pair of 90_conflicts.md C1 among them. -/
def Obligations.CrcKnownValues : Prop :=
  crc32 [] = 0x00000000 ∧ crc32 [0x00] = 0xD202EF8D ∧ crc32 [0x01] = 0xA505DF1B ∧ crc32 [0x31] = 0x83DCEFB7 ∧
  crc32 [0xFF] = 0xFF000000 ∧ crc32 tagIEND = 0xAE426082 ∧
  crc32 [0x31, 0x32, 0x33, 0x34, 0x35, 0x36, 0x37, 0x38, 0x39] = 0xCBF43926

/-- R97: `CRC.INIT` sets `CRC` to the start value and writes nothing else; twice is the same as once. -/
def Obligations.CrcInitStartsAChecksum : Prop :=
  decode 0x10000000 = .ok .crcInit ∧
  ∀ s : State, s.fault = false →
    exec .crcInit s = .next { s with crc := 0xFFFFFFFF } ∧
    exec .crcInit { s with crc := 0xFFFFFFFF } = .next { s with crc := 0xFFFFFFFF }

/-- R98: `CRC.BYTE imm8` steps `CRC` by the byte, whatever `CRC` held, and writes nothing else; the rule's two values; its words, and
that a word of its opcode with a bit of 23:8 set is illegal. -/
def Obligations.CrcByteFeedsOneByte : Prop :=
  (∀ b : Byte, decode (0x11000000 + b.setWidth 32) = .ok (.crcByte b)) ∧
  (∀ v : Word, v.toNat / 2 ^ 24 = 0x11 → v.toNat / 2 ^ 8 % 2 ^ 16 ≠ 0 → (decode v).toOption = none) ∧
  (∀ (s : State) (b : Byte), s.fault = false →
    exec (.crcByte b) s = .next { s with crc := Nat.repeat crcBit 8 (s.crc ^^^ b.setWidth 32) }) ∧
  crcByte 0xFFFFFFFF 0x31 = 0x7C231048 ∧ crcByte 0xFFFFFFFF 0x00 = 0x2DFD1072

/-- R99: `CRC.FIN` puts the complement of `CRC` in `RESULT` and writes nothing else; twice gives the same; after the start value
it gives 0. -/
def Obligations.CrcFinComplementsIntoResult : Prop :=
  decode 0x12000000 = .ok .crcFin ∧
  ∀ s : State, s.fault = false →
    exec .crcFin s = .next { s with result := s.crc ^^^ 0xFFFFFFFF } ∧
    exec .crcFin { s with result := s.crc ^^^ 0xFFFFFFFF } = .next { s with result := s.crc ^^^ 0xFFFFFFFF } ∧
    (s.crc = 0xFFFFFFFF → exec .crcFin s = .next { s with result := 0 })

/-- R100: `CRC32` leaves the accumulated value and the checksum of the whole buffer, whatever `CRC` held, and writes nothing else. -/
def Obligations.Crc32ChecksumsTheBuffer : Prop :=
  decode 0x13000000 = .ok .crc32 ∧
  (∀ s : State, s.fault = false →
    exec .crc32 s = .next { s with crc := crcAcc 0xFFFFFFFF s.ibuf, result := ~~~ (crcAcc 0xFFFFFFFF s.ibuf) }) ∧
  (∀ s : State, s.fault = false → s.ibuf = [] → exec .crc32 s = .next { s with crc := 0xFFFFFFFF, result := 0 }) ∧
  (∀ s : State, s.fault = false → s.ibuf = [0x49, 0x45, 0x4E, 0x44] →
    exec .crc32 s = .next { s with crc := 0x51BD9F7D, result := 0xAE426082 })

/-- R101: for every byte sequence the engine fed byte by byte and the engine run over the buffer leave the same `CRC` and the same
`RESULT`, the checksum. -/
def Obligations.BytewiseAndBufferedChecksumsAgree : Prop :=
  ∀ (s : State) (bs : List Byte), s.fault = false → bs.length ≤ Config.ibufCap →
    runActions (assemble [.command .crcInit, .crcStr bs, .command .crcFin]) s =
      .next { s with crc := crcAcc 0xFFFFFFFF bs, result := crc32 bs } ∧
    runActions (assemble [.load bs, .command .crc32]) s =
      .next { s with ibuf := bs, crc := crcAcc 0xFFFFFFFF bs, result := crc32 bs }

/-! ### The chunk framer -/

/-- R8, R53: `be32` is the big-endian form: reading it back gives the number, and it is four bytes long. -/
def Obligations.Be32IsBigEndian : Prop :=
  ∀ v : Word, (be32 v).length = 4 ∧ readBe (be32 v) = v.toNat ∧
    be32 v = [BitVec.ofNat 8 (v.toNat / 2 ^ 24), BitVec.ofNat 8 (v.toNat / 2 ^ 16), BitVec.ofNat 8 (v.toNat / 2 ^ 8),
      BitVec.ofNat 8 v.toNat]

/-- R111: the chunk of a payload that fits, byte offset by byte offset; no chunk for one that does not. The last clause, the framer's
fault as `CHUNK` raises it, is about states whose buffer holds 2^32 bytes or more: R114 (c) says that no run reaches one, and
what the model does there is its own choice (DESIGN CHOICE, log entry 15). -/
def Obligations.ChunkFormatOrOverflow : Prop :=
  (∀ t p : List Byte, t.length = 4 → p.length < 2 ^ 32 → ∃ c, chunk t p = some c ∧ c.length = 12 + p.length ∧
    c.take 4 = be32 (BitVec.ofNat 32 p.length) ∧ (c.drop 4).take 4 = t ∧ (c.drop 8).take p.length = p ∧
    c.drop (8 + p.length) = be32 (crc32 (t ++ p))) ∧
  (∀ t p : List Byte, 2 ^ 32 ≤ p.length → chunk t p = none) ∧
  (∀ s : State, s.fault = false → 2 ^ 32 ≤ s.ibuf.length → exec .chunk s = .next
    { s with fault := true, cause := .payloadOverflow, expect := 0xFFFFFFFF, actual := 0xFFFFFFFF, phase := .idle })

/-- R113: the decoder recovers tag and payload of every chunk, the empty payload included, and a concatenation of chunks parses
in one way only. -/
def Obligations.ChunksParseBack : Prop :=
  (∀ t p : List Byte, t.length = 4 → p.length < 2 ^ 32 → (chunk t p).bind unchunk = some (t, p)) ∧
  (∀ xs ys : List (List Byte × List Byte), (∀ x ∈ xs, x.1.length = 4 ∧ x.2.length < 2 ^ 32) →
    (∀ y ∈ ys, y.1.length = 4 ∧ y.2.length < 2 ^ 32) →
    (xs.flatMap fun x => frame x.1 x.2) = (ys.flatMap fun y => frame y.1 y.2) → xs = ys)

/-- R112: the unit that sends a chunk byte by byte sends exactly the chunk, leaves the accumulated value and the checksum in the
engine, and sends nothing of a payload that does not fit. -/
def Obligations.FramerUnitSendsTheChunk : Prop :=
  ∀ (t p : List Byte) (q : Seq),
    (p.length < 2 ^ 32 → frameUnit t p q =
      { q with
        st := { q.st with crc := crcAcc 0xFFFFFFFF (t ++ p), result := crc32 (t ++ p) }
        pkt := q.pkt ++ (be32 (BitVec.ofNat 32 p.length) ++ t ++ p ++ be32 (crc32 (t ++ p))) }) ∧
    (2 ^ 32 ≤ p.length → (frameUnit t p q).pkt = [] ∧ (frameUnit t p q).st = q.st.raise .payloadOverflow (2 ^ 32 - 1) 0xFFFFFFFF)

/-- R114: `CHUNK` emits the one chunk of the tag register and the buffer, leaves its checksum in the engine, changes nothing else, and
cannot fault while the buffer keeps its bound; a faulted block ignores it. -/
def Obligations.ChunkEmitsTheBufferAsOneChunk : Prop :=
  decode 0x20000000 = .ok .chunk ∧ (∀ s : State, s.fault = true → exec .chunk s = .next s) ∧
  ∀ s : State, s.fault = false → s.ibuf.length ≤ Config.ibufCap →
    exec .chunk s = .next
      { s with
        crc := crcAcc 0xFFFFFFFF (be32 s.tag ++ s.ibuf), result := crc32 (be32 s.tag ++ s.ibuf)
        out := s.out ++ [be32 (BitVec.ofNat 32 s.ibuf.length) ++ be32 s.tag ++ s.ibuf ++ be32 (crc32 (be32 s.tag ++ s.ibuf))] } ∧
    (be32 (BitVec.ofNat 32 s.ibuf.length) ++ be32 s.tag ++ s.ibuf ++ be32 (crc32 (be32 s.tag ++ s.ibuf))).length =
      12 + s.ibuf.length

/-! ### The scanline framer -/

/-- R121, R124: the raw buffer of an image of the right size, row by row and byte by byte, and its size. -/
def Obligations.ScanPutsAZeroBeforeEachRow : Prop :=
  (∀ (w h : Word) (pix : List Byte), 1 ≤ w.toNat → 1 ≤ h.toNat → pix.length = 4 * w.toNat * h.toNat →
    (scan w h pix).length = h.toNat * (1 + 4 * w.toNat) ∧ (scan w h pix).length = pix.length + h.toNat ∧
    5 ≤ (scan w h pix).length ∧
    scan w h pix = (List.range h.toNat).flatMap
      (fun y => 0x00 :: (pix.drop (y * 4 * w.toNat)).take (4 * w.toNat)) ∧
    (∀ y < h.toNat, (scan w h pix)[y * (1 + 4 * w.toNat)]? = some 0x00 ∧
      ∀ i < 4 * w.toNat, (scan w h pix)[y * (1 + 4 * w.toNat) + 1 + i]? = pix[y * 4 * w.toNat + i]? ∧
        y * 4 * w.toNat + i < pix.length)) ∧
  pixelBytes 240 16 = 15360 ∧ ∀ pix : List Byte, pix.length = 15360 → (scan 240 16 pix).length = 15376

/-- R122 (d), R123, and R52 with R121: stripping the filter bytes gives the pixel buffer back, so two buffers with one raw form are
equal; and where each channel of each pixel stands in the buffer and in the raw form. -/
def Obligations.UnscanRecoversThePixels : Prop :=
  (∀ (w h : Word) (pix pix' : List Byte), pix.length = pixelBytes w h → pix'.length = pixelBytes w h →
    unscan w h (scan w h pix) = pix ∧ (scan w h pix = scan w h pix' → pix = pix')) ∧
  (∀ (w h : Word) (pix : List Byte) (x y k : Nat), pix.length = pixelBytes w h → x < w.toNat → y < h.toNat → k < 4 →
    pixelIndex w x y k < pix.length ∧
    (scan w h pix)[y * rowStride w + 1 + 4 * x + k]? = pix[pixelIndex w x y k]?)

/-! ### ENCODE -/

/-- R144, R150: `ENCODE` on a clear block whose image has the right size, with the unit answering `ok`. For every codec the unit may hold
(R6), where the stream fits its length field: one packet, the file, `57 + |c|` bytes long, and the engine as the IEND chunk
leaves it, nothing else changed. `exec` is that operation with the block's own codec, the length of whose streams R132 (b)
forbids to assume, so in the last clause the test of `CHK_PAY` stands in the conclusion. The lists of answers and requests are
the model's own (log entry 4). -/
def Obligations.EncodeEmitsTheFile : Prop :=
  decode 0x30000000 = .ok .encode ∧
  (∀ (D : Codec) (s : State) (c : List Byte), s.width ≠ 0 → s.height ≠ 0 →
    s.ibuf.length = 4 * s.width.toNat * s.height.toNat → s.nextDraw = .ok →
    c = D.deflate (scan s.width s.height s.ibuf) → c.length < 2 ^ 32 →
    encodeImage D s =
      { s with
        crc := 0x51BD9F7D, result := 0xAE426082, out := s.out ++ [png s.width s.height c]
        draws := s.draws.tail, sent := s.sent ++ [scan s.width s.height s.ibuf] } ∧
    (png s.width s.height c).length = 57 + c.length) ∧
  (∀ s : State, s.fault = false → exec .encode s = .next (encodeImage Config.codec s)) ∧
  (∀ (s : State) (c : List Byte), s.fault = false → s.width ≠ 0 → s.height ≠ 0 →
    s.ibuf.length = 4 * s.width.toNat * s.height.toNat → s.nextDraw = .ok →
    c = Config.codec.deflate (scan s.width s.height s.ibuf) →
    exec .encode s = .next
      (if c.length < 2 ^ 32 then
        { s with
          crc := 0x51BD9F7D, result := 0xAE426082, out := s.out ++ [png s.width s.height c]
          draws := s.draws.tail, sent := s.sent ++ [scan s.width s.height s.ibuf] }
      else
        { s with
          fault := true, cause := .payloadOverflow, expect := 0xFFFFFFFF, actual := 0xFFFFFFFF, phase := .idle
          draws := s.draws.tail, sent := s.sent ++ [scan s.width s.height s.ibuf] }))

/-- R146, R147: the two precondition faults, in that order, with the exact size in `EXPECT` and `ILEN` in `ACTUAL`; the DEFLATE unit is
not asked and nothing else changes. -/
def Obligations.EncodePreconditionFaults : Prop :=
  ∀ s : State, s.fault = false →
    (s.width = 0 ∨ s.height = 0 → exec .encode s = .next
      { s with
        fault := true, cause := .badDimension, expect := 0, actual := BitVec.ofNat 32 s.ibuf.length, phase := .idle }) ∧
    (s.width ≠ 0 → s.height ≠ 0 → s.ibuf.length ≠ 4 * s.width.toNat * s.height.toNat → exec .encode s = .next
      { s with
        fault := true, cause := .lengthMismatch, expect := BitVec.ofNat 66 (4 * s.width.toNat * s.height.toNat)
        actual := BitVec.ofNat 32 s.ibuf.length, phase := .idle }) ∧
    (BitVec.ofNat 66 (4 * s.width.toNat * s.height.toNat)).toNat = 4 * s.width.toNat * s.height.toNat

/-- R149, R130: one `err(e)` ends the command with CompressFail, `e` unchanged in `ACTUAL`, no retry, no packet. The lists of answers
and requests are the model's own (log entry 4). -/
def Obligations.EncodeHandsTheUnitsErrorOn : Prop :=
  ∀ (s : State) (e : Word), s.fault = false → s.width ≠ 0 → s.height ≠ 0 →
    s.ibuf.length = 4 * s.width.toNat * s.height.toNat → s.nextDraw = .err e →
    exec .encode s = .next
      { s with
        fault := true, cause := .compressFail, expect := 0, actual := e, phase := .idle
        draws := s.draws.tail, sent := s.sent ++ [scan s.width s.height s.ibuf] }

/-- R128: the block sends the unit exactly one request, the whole raw buffer, for an `ENCODE` whose preconditions hold, and none at any
other time. The lists of answers and requests are the model's own (log entry 4). -/
def Obligations.OneRequestPerEncode : Prop :=
  (∀ s : State, s.fault = false → s.width ≠ 0 → s.height ≠ 0 → s.ibuf.length = pixelBytes s.width s.height →
    ∃ t, hostAct (.regWrite .word 0x00 0x30000000) s = .next t ∧ t.sent = s.sent ++ [scan s.width s.height s.ibuf] ∧
      t.draws = s.draws.tail) ∧
  (∀ (a : HostAction) (s t : State), hostAct a s = .next t →
    ¬ (a = .regWrite .word 0x00 0x30000000 ∧ s.fault = false ∧ s.width ≠ 0 ∧ s.height ≠ 0 ∧
      s.ibuf.length = pixelBytes s.width s.height) →
    t.sent = s.sent ∧ t.draws = s.draws)

/-- R145: each phase goes on to the next in the order of the rule, or faults straight to `IDLE`; no branch, no loop. -/
def Obligations.PhasesFollowOneLine : Prop :=
  ∀ (D : Codec) (q : Seq), q.st.fault = false →
    ((phaseStep D q).st.fault = false ∧ (phaseStep D q).st.phase = q.st.phase.after) ∨
    ((phaseStep D q).st.fault = true ∧ (phaseStep D q).st.phase = .idle ∧
      q.st.phase ∈ [Phase.chkDim, .chkLen, .defl, .chkPay])

/-- R155: the phases run one after the other have exactly the effect of the one step, for every state, whatever the hidden buffers
held before, and every codec and answer of the unit. -/
def Obligations.PhasesRefineTheOneStep : Prop :=
  (∀ (D : Codec) (s : State) (raw cmp : List Byte) (n : Nat), s.fault = false → s.phase = .idle → 9 ≤ n →
    (runPhases D n (startEncode s raw cmp)).st = encodeImage D s) ∧
  (∀ (s : State) (raw cmp : List Byte), s.fault = false → s.phase = .idle →
    exec .encode s = .next (runPhases Config.codec 9 (startEncode s raw cmp)).st)

/-- R156: no phase that can fault sends a byte, no phase that sends a byte can fault, and so an `ENCODE` either emits one whole file or
emits nothing and is a fault. -/
def Obligations.EncodeIsAllOrNothing : Prop :=
  (∀ (D : Codec) (q : Seq), q.st.phase ∈ [Phase.chkDim, .chkLen, .scan, .defl, .chkPay] → q.pkt = [] →
    (phaseStep D q).pkt = [] ∧ (phaseStep D q).st.out = q.st.out) ∧
  (∀ (D : Codec) (q : Seq), q.st.phase ∈ [Phase.sig, .ihdr, .idat, .iend] →
    (phaseStep D q).st.fault = q.st.fault ∧ (phaseStep D q).st.cause = q.st.cause) ∧
  (∀ s t : State, s.fault = false → exec .encode s = .next t →
    (t.fault = true ∧ t.out = s.out) ∨
    (t.fault = false ∧ ∃ c : List Byte, c.length < 2 ^ 32 ∧ t.out = s.out ++ [png s.width s.height c]))

/-- R157: every packet of `ENCODE` is the signature, one IHDR chunk with the image's dimensions, one IDAT chunk, the empty IEND chunk
as its last 12 bytes, and nothing else; each chunk passes the decoder. -/
def Obligations.EncodePacketsAreValidFiles : Prop :=
  (∀ s t : State, s.fault = false → exec .encode s = .next t → t.out = s.out ∨
    ∃ c : List Byte, c.length < 2 ^ 32 ∧ t.out = s.out ++ [png s.width s.height c]) ∧
  (∀ (w h : Word) (c : List Byte), c.length < 2 ^ 32 →
    (png w h c).length = 57 + c.length ∧
    (png w h c).take 8 = [0x89, 0x50, 0x4E, 0x47, 0x0D, 0x0A, 0x1A, 0x0A] ∧
    unchunk (((png w h c).drop 8).take 25) = some ([0x49, 0x48, 0x44, 0x52], be32 w ++ be32 h ++ [8, 6, 0, 0, 0]) ∧
    unchunk (((png w h c).drop 33).take (12 + c.length)) = some ([0x49, 0x44, 0x41, 0x54], c) ∧
    unchunk ((png w h c).drop (45 + c.length)) = some ([0x49, 0x45, 0x4E, 0x44], []))

/-- R78: the layout of the packet, row by row of the table. -/
def Obligations.PngLayoutByOffset : Prop :=
  ∀ (w h : Word) (c p : List Byte), c.length < 2 ^ 32 → p = png w h c →
    p.take 8 = [0x89, 0x50, 0x4E, 0x47, 0x0D, 0x0A, 0x1A, 0x0A] ∧
    (p.drop 8).take 4 = [0x00, 0x00, 0x00, 0x0D] ∧ (p.drop 12).take 4 = [0x49, 0x48, 0x44, 0x52] ∧
    (p.drop 16).take 4 = be32 w ∧ (p.drop 20).take 4 = be32 h ∧
    p[24]? = some 8 ∧ p[25]? = some 6 ∧ p[26]? = some 0 ∧ p[27]? = some 0 ∧ p[28]? = some 0 ∧
    (p.drop 29).take 4 = be32 (crc32 ((p.drop 12).take 17)) ∧
    (p.drop 33).take 4 = be32 (BitVec.ofNat 32 c.length) ∧ (p.drop 37).take 4 = [0x49, 0x44, 0x41, 0x54] ∧
    (p.drop 41).take c.length = c ∧
    (p.drop (41 + c.length)).take 4 = be32 (crc32 ((p.drop 37).take (4 + c.length))) ∧
    (p.drop (45 + c.length)).take 4 = [0x00, 0x00, 0x00, 0x00] ∧
    (p.drop (49 + c.length)).take 4 = [0x49, 0x45, 0x4E, 0x44] ∧
    p.drop (53 + c.length) = [0xAE, 0x42, 0x60, 0x82] ∧ p.length = 57 + c.length

/-- R158: from a packet `ENCODE` emits, the IDAT payload inflates to a raw buffer whose rows without their filter bytes are the pixel
buffer; a faulting `ENCODE` emits none. -/
def Obligations.PixelsSurviveTheRoundTrip : Prop :=
  ∀ s t : State, s.fault = false → exec .encode s = .next t →
    (t.fault = true ∧ t.out = s.out) ∨
    ∃ p raw : List Byte, t.out = s.out ++ [p] ∧
      Config.codec.inflate ((p.drop 41).take (readBe ((p.drop 33).take 4))) = some raw ∧
      unscan s.width s.height raw = s.ibuf

/-- R159: two `ENCODE` commands with equal dimensions and buffer, both answered `ok`, emit the same packets and end alike, whatever
else the two states hold. -/
def Obligations.EncodeIsDeterministic : Prop :=
  ∀ s s' t t' : State, s.fault = false → s'.fault = false → s'.width = s.width → s'.height = s.height → s'.ibuf = s.ibuf →
    s.nextDraw = .ok → s'.nextDraw = .ok → exec .encode s = .next t → exec .encode s' = .next t' →
    t'.fault = t.fault ∧ ∃ ps : List (List Byte), t.out = s.out ++ ps ∧ t'.out = s'.out ++ ps

/-- R142, R24, R25 and decision D20: what `ENCODE` and `CHUNK` emit does not depend on the argument registers of the other, nor on what
the engine held; those registers pass through. -/
def Obligations.EmittingCommandsIgnoreEachOthersArguments : Prop :=
  (∀ (s t : State) (x : Word), exec .encode s = .next t → exec .encode { s with tag := x } = .next { t with tag := x }) ∧
  (∀ (s t : State) (x y : Word), exec .chunk s = .next t →
    exec .chunk { s with width := x, height := y } = .next { t with width := x, height := y }) ∧
  (∀ (s t : State) (x y : Word), s.fault = false → s.ibuf.length ≤ Config.ibufCap → exec .chunk s = .next t →
    exec .chunk { s with crc := x, result := y } = .next t) ∧
  (∀ (s t : State) (x y : Word), exec .encode s = .next t →
    ∃ t', exec .encode { s with crc := x, result := y } = .next t' ∧ t'.out = t.out ∧ t'.fault = t.fault)

/-! ### Faults -/

/-- R32: the three registers read together are the 66-bit value, which holds `4 * W * H` exactly for every `W` and `H`; a write to one
of them changes nothing. -/
def Obligations.ExpectIsReadWhole : Prop :=
  (∀ s : State, (readAt s 0x14).toNat * 2 ^ 64 + (readAt s 0x10).toNat * 2 ^ 32 + (readAt s 0x0C).toNat = s.expect.toNat) ∧
  (∀ w h : Word, (BitVec.ofNat 66 (4 * w.toNat * h.toNat)).toNat = 4 * w.toNat * h.toNat) ∧
  (∀ s : State, (readAt s 0x14).toNat < 4) ∧ State.reset.expect = 0 ∧
  (∀ (s : State) (v : Word) (off : Nat), off ∈ [0x0C, 0x10, 0x14] → hostAct (.regWrite .word off v) s = .next s)

/-- R168, R184: in the fault state every write but the word of `RESET` to `CMD` changes nothing and raises no second fault, so the fault
registers describe the first fault since reset: a step from a faulted block leaves the block as it is, emits nothing, or is a
reset. -/
def Obligations.FaultStateIsAbsorbing : Prop :=
  (∀ (s : State) (off : Nat) (v : Word), s.fault = true → off % 4 = 0 → off ≤ 0xFC → ¬ (off = 0x00 ∧ v = 0x01000000) →
    hostAct (.regWrite .word off v) s = .next s) ∧
  (∀ s t : State, s.fault = true → step s = .next t →
    sameBlock s t ∨
    ∃ rest : List HostAction,
      (s.todo = .hardReset :: rest ∨ s.todo = .regWrite .word 0x00 0x01000000 :: rest) ∧
      t.fault = false ∧ t.out = s.out)

/-- R183: the only exits from the fault state are the `RESET` command and `HardReset`, and both put every register in its reset
state. -/
def Obligations.OnlyResetLeavesTheFaultState : Prop :=
  ∀ (a : HostAction) (s t : State), s.fault = true → hostAct a s = .next t → t.fault = false →
    (a = .hardReset ∨ a = .regWrite .word 0x00 0x01000000) ∧
    t = { State.reset with out := s.out, reads := s.reads, todo := s.todo, draws := s.draws, sent := s.sent }

/-- R179: which host action can raise which cause. -/
def Obligations.EachActionRaisesOnlyItsCauses : Prop :=
  ∀ (a : HostAction) (s t : State), s.fault = false → s.ibuf.length ≤ Config.ibufCap → hostAct a s = .next t → t.fault = true →
    (a = .regWrite .word 0x00 0x30000000 ∧
      t.cause ∈ [Cause.badDimension, .lengthMismatch, .compressFail, .payloadOverflow]) ∨
    (∃ v : Word, a = .regWrite .word 0x00 v ∧ (decode v).toOption = none ∧ t.cause = .illegalCommand) ∨
    (∃ v : Word, a = .regWrite .word 0x34 v ∧ s.ibuf.length = Config.ibufCap ∧ t.cause = .inputOverflow)

/-- R181, R182: a faulting action writes the four fault registers and `PHASE`, and nothing else of the block: faults are precise. What
else may differ is the model's record of the DEFLATE unit (log entry 4). -/
def Obligations.FaultsArePrecise : Prop :=
  ∀ (a : HostAction) (s t : State), s.fault = false → hostAct a s = .next t → t.fault = true →
    t.cause ≠ .none ∧ t.phase = .idle ∧
    t = { s with
      fault := true, cause := t.cause, expect := t.expect, actual := t.actual, phase := .idle, draws := t.draws, sent := t.sent }

/-! ### Frames -/

/-- What the commands other than `RESET` leave alone (R22 to R26, R31, R39, D20): the argument registers always; the buffer, byte by
byte, but for `IN.CLR`; `CRC` and `RESULT` but for the commands that write them; the fault registers and the phase unless a
fault is raised; the output stream but for the two emitting commands; the DEFLATE unit but for `ENCODE` (R128). The values
read and the actions to come (log entries 8 and 1) and the unit's answers and requests (log entry 4) are the model's own
records. -/
def Obligations.CommandsLeaveTheRestAlone : Prop :=
  ∀ (i : Instr) (s t : State), i ≠ .reset → exec i s = .next t →
    t.width = s.width ∧ t.height = s.height ∧ t.tag = s.tag ∧ t.reads = s.reads ∧ t.todo = s.todo ∧
    (i ≠ .inClr → ∀ k : Nat, t.readByte k = s.readByte k) ∧
    ((∀ b, i ≠ .crcByte b) → i ∉ [Instr.crcInit, .crc32, .chunk, .encode] → t.crc = s.crc) ∧
    (i ∉ [Instr.crcFin, .crc32, .chunk, .encode] → t.result = s.result) ∧
    (i ∉ [Instr.chunk, .encode] →
      t.out = s.out ∧ t.fault = s.fault ∧ t.cause = s.cause ∧ t.expect = s.expect ∧ t.actual = s.actual ∧ t.phase = s.phase) ∧
    (i ≠ .encode → t.draws = s.draws ∧ t.sent = s.sent)

/-- R210: nothing but a word written to `CMD`, or a reset, disturbs the engine's two registers, and a faulting action does not
either. -/
def Obligations.OnlyCommandsDisturbTheEngine : Prop :=
  (∀ (a : HostAction) (s t : State), hostAct a s = .next t → a ≠ .hardReset → (∀ v, a ≠ .regWrite .word 0x00 v) →
    t.crc = s.crc ∧ t.result = s.result) ∧
  (∀ (a : HostAction) (s t : State), s.fault = false → hostAct a s = .next t → t.fault = true →
    t.crc = s.crc ∧ t.result = s.result) ∧
  (∀ (i : Instr) (s t : State), i = .nop ∨ i = .inClr → exec i s = .next t → t.crc = s.crc ∧ t.result = s.result)

/-- R39: the buffer is changed by a push, by `IN.CLR` and by reset, and by nothing else the host can do. -/
def Obligations.BufferChangesOnlyByPushClearReset : Prop :=
  ∀ (a : HostAction) (s t : State), hostAct a s = .next t → t.ibuf ≠ s.ibuf →
    (∃ v : Word, a = .regWrite .word 0x34 v ∧ t.ibuf = s.ibuf ++ [pushedByte v]) ∨
    (a = .regWrite .word 0x00 0x02000000 ∧ t.ibuf = []) ∨
    ((a = .hardReset ∨ a = .regWrite .word 0x00 0x01000000) ∧ t.ibuf = [])

/-! ### The output stream -/

/-- R38, R10: a step appends at most one packet, never takes one back, and only `CHUNK` and `ENCODE` append. -/
def Obligations.OneStepAppendsAtMostOnePacket : Prop :=
  ∀ s t : State, step s = .next t →
    t.out = s.out ∨
    (∃ p : List Byte, p ≠ [] ∧ t.out = s.out ++ [p] ∧ t.fault = false ∧
      ∃ rest : List HostAction,
        s.todo = .regWrite .word 0x00 0x20000000 :: rest ∨ s.todo = .regWrite .word 0x00 0x30000000 :: rest)

/-- R38, R55: the beats of a packet carry its bytes in order, none lost, and the `last` mark on the final byte only. -/
def Obligations.BeatsMarkTheLastByteOnly : Prop :=
  ∀ p : List Byte, (beats p).map Prod.fst = p ∧
    ∀ k : Nat, k < p.length → ((beats p)[k]?).map Prod.snd = some (decide (k + 1 = p.length))

/-! ### Invariants -/

/-- The invariant of the block (R20, R27, R31, R177) holds after reset. That the output stream is one of whole packets rests on its
being empty in `State.reset`, the model's choice (DESIGN CHOICE, log entry 19). -/
def Obligations.ResetMeetsTheInvariant : Prop := State.reset.Inv ∧ State.reset.outWhole

/-- Every step keeps it, from every state that meets it, reachable or not: the buffer within its capacity, the sequencer idle, `CAUSE` 0
exactly when `FAULT` is 0, and the fault registers telling the truth about the fault that stands. -/
def Obligations.EveryStepKeepsTheInvariant : Prop :=
  ∀ s t : State, s.Inv → step s = .next t → t.Inv

/-- R38, R156: every step keeps the output stream a list of whole chunks and whole files. -/
def Obligations.EveryStepKeepsPacketsWhole : Prop :=
  ∀ s t : State, s.outWhole → step s = .next t → t.outWhole

/-! ### The host's protocol -/

/-- R205, chunk row: set the tag, load the payload, `CHUNK`: one packet, the chunk of that tag and payload. -/
def Obligations.SetupThenChunkGivesTheChunk : Prop :=
  ∀ (s : State) (a b c d : Byte) (p : List Byte), s.fault = false → p.length ≤ Config.ibufCap →
    ∃ t : State, runActions (assemble [.setTag a b c d, .load p, .command .chunk]) s = .next t ∧
      t.out = s.out ++ [frame [a, b, c, d] p] ∧ t.fault = false ∧ t.ibuf = p ∧ be32 t.tag = [a, b, c, d] ∧
      goneWrong (.next t) = false

/-- R205, file row, after a reset: set the dimensions, load the pixels, `ENCODE`: one packet, the file of that image, or a fault and
none. The fault is the unit's error, an overlong stream, or an image the buffer cannot hold (R165), each only where it must be. The
unit's next answer, `nextDraw`, is the model's own record (log entry 4). -/
def Obligations.SetupThenEncodeGivesTheFile : Prop :=
  ∀ (s : State) (w h : Word) (pix : List Byte), w ≠ 0 → h ≠ 0 → pix.length = pixelBytes w h →
    ∃ t : State, runActions (assemble [.hreset, .setDim w h, .load pix, .command .encode]) s = .next t ∧
      ((t.fault = false ∧ pix.length ≤ Config.ibufCap ∧
          t.out = s.out ++ [png w h (Config.codec.deflate (scan w h pix))]) ∨
        (t.fault = true ∧ t.out = s.out ∧
          ((t.cause = .inputOverflow ∧ Config.ibufCap < pix.length) ∨
            (t.cause = .compressFail ∧ pix.length ≤ Config.ibufCap ∧ s.nextDraw ≠ .ok) ∨
            (t.cause = .payloadOverflow ∧ pix.length ≤ Config.ibufCap ∧
              2 ^ 32 ≤ (Config.codec.deflate (scan w h pix)).length))))
end

