-- ==== Sys2Proof/Laws/Core.lean ====
section
/-! SUPPORT. The host's run of the machine, one step at a time. -/

namespace Sys2Proof.Machine

/-- The host's run of any machine takes one step and goes on. -/
theorem hostRun_succ (M : Host.Core) (k : Nat) (s : M.State) :
    M.run (k + 1) s =
      match M.step s with
      | .next t => M.run k t
      | .fault r => .fault r
      | .refused r => .refused r := rfl

/-- The host's run of this machine takes one `step` and goes on. -/
theorem core_run_succ (k : Nat) (s : State) :
    Sys2Proof.core.run (k + 1) s =
      match step s with
      | .next t => Sys2Proof.core.run k t
      | .fault r => .fault r
      | .refused r => .refused r := by
  have run := hostRun_succ Sys2Proof.core k s
  cases h : step s
  all_goals
    have h' : Sys2Proof.core.step s = _ := h
    rw [h'] at run
    exact run

end Sys2Proof.Machine
end

