-- ==== Sys2Proof/Laws/State.lean ====
section
/-! SUPPORT. One lemma per field per state update, so that no proof unfolds a record update. -/

namespace Sys2Proof.Machine

@[simp] theorem State.setCrc_fault (s : State) (v : Word) : (s.setCrc v).fault = s.fault := rfl
@[simp] theorem State.setCrc_cause (s : State) (v : Word) : (s.setCrc v).cause = s.cause := rfl
@[simp] theorem State.setCrc_expect (s : State) (v : Word) : (s.setCrc v).expect = s.expect := rfl
@[simp] theorem State.setCrc_actual (s : State) (v : Word) : (s.setCrc v).actual = s.actual := rfl
@[simp] theorem State.setCrc_crc (s : State) (v : Word) : (s.setCrc v).crc = v := rfl
@[simp] theorem State.setCrc_result (s : State) (v : Word) : (s.setCrc v).result = s.result := rfl
@[simp] theorem State.setCrc_width (s : State) (v : Word) : (s.setCrc v).width = s.width := rfl
@[simp] theorem State.setCrc_height (s : State) (v : Word) : (s.setCrc v).height = s.height := rfl
@[simp] theorem State.setCrc_tag (s : State) (v : Word) : (s.setCrc v).tag = s.tag := rfl
@[simp] theorem State.setCrc_ibuf (s : State) (v : Word) : (s.setCrc v).ibuf = s.ibuf := rfl
@[simp] theorem State.setCrc_phase (s : State) (v : Word) : (s.setCrc v).phase = s.phase := rfl
@[simp] theorem State.setCrc_out (s : State) (v : Word) : (s.setCrc v).out = s.out := rfl
@[simp] theorem State.setCrc_reads (s : State) (v : Word) : (s.setCrc v).reads = s.reads := rfl
@[simp] theorem State.setCrc_todo (s : State) (v : Word) : (s.setCrc v).todo = s.todo := rfl
@[simp] theorem State.setCrc_draws (s : State) (v : Word) : (s.setCrc v).draws = s.draws := rfl
@[simp] theorem State.setCrc_sent (s : State) (v : Word) : (s.setCrc v).sent = s.sent := rfl

@[simp] theorem State.setResult_fault (s : State) (v : Word) : (s.setResult v).fault = s.fault := rfl
@[simp] theorem State.setResult_cause (s : State) (v : Word) : (s.setResult v).cause = s.cause := rfl
@[simp] theorem State.setResult_expect (s : State) (v : Word) : (s.setResult v).expect = s.expect := rfl
@[simp] theorem State.setResult_actual (s : State) (v : Word) : (s.setResult v).actual = s.actual := rfl
@[simp] theorem State.setResult_crc (s : State) (v : Word) : (s.setResult v).crc = s.crc := rfl
@[simp] theorem State.setResult_result (s : State) (v : Word) : (s.setResult v).result = v := rfl
@[simp] theorem State.setResult_width (s : State) (v : Word) : (s.setResult v).width = s.width := rfl
@[simp] theorem State.setResult_height (s : State) (v : Word) : (s.setResult v).height = s.height := rfl
@[simp] theorem State.setResult_tag (s : State) (v : Word) : (s.setResult v).tag = s.tag := rfl
@[simp] theorem State.setResult_ibuf (s : State) (v : Word) : (s.setResult v).ibuf = s.ibuf := rfl
@[simp] theorem State.setResult_phase (s : State) (v : Word) : (s.setResult v).phase = s.phase := rfl
@[simp] theorem State.setResult_out (s : State) (v : Word) : (s.setResult v).out = s.out := rfl
@[simp] theorem State.setResult_reads (s : State) (v : Word) : (s.setResult v).reads = s.reads := rfl
@[simp] theorem State.setResult_todo (s : State) (v : Word) : (s.setResult v).todo = s.todo := rfl
@[simp] theorem State.setResult_draws (s : State) (v : Word) : (s.setResult v).draws = s.draws := rfl
@[simp] theorem State.setResult_sent (s : State) (v : Word) : (s.setResult v).sent = s.sent := rfl

@[simp] theorem State.setWidth_fault (s : State) (v : Word) : (s.setWidth v).fault = s.fault := rfl
@[simp] theorem State.setWidth_cause (s : State) (v : Word) : (s.setWidth v).cause = s.cause := rfl
@[simp] theorem State.setWidth_expect (s : State) (v : Word) : (s.setWidth v).expect = s.expect := rfl
@[simp] theorem State.setWidth_actual (s : State) (v : Word) : (s.setWidth v).actual = s.actual := rfl
@[simp] theorem State.setWidth_crc (s : State) (v : Word) : (s.setWidth v).crc = s.crc := rfl
@[simp] theorem State.setWidth_result (s : State) (v : Word) : (s.setWidth v).result = s.result := rfl
@[simp] theorem State.setWidth_width (s : State) (v : Word) : (s.setWidth v).width = v := rfl
@[simp] theorem State.setWidth_height (s : State) (v : Word) : (s.setWidth v).height = s.height := rfl
@[simp] theorem State.setWidth_tag (s : State) (v : Word) : (s.setWidth v).tag = s.tag := rfl
@[simp] theorem State.setWidth_ibuf (s : State) (v : Word) : (s.setWidth v).ibuf = s.ibuf := rfl
@[simp] theorem State.setWidth_phase (s : State) (v : Word) : (s.setWidth v).phase = s.phase := rfl
@[simp] theorem State.setWidth_out (s : State) (v : Word) : (s.setWidth v).out = s.out := rfl
@[simp] theorem State.setWidth_reads (s : State) (v : Word) : (s.setWidth v).reads = s.reads := rfl
@[simp] theorem State.setWidth_todo (s : State) (v : Word) : (s.setWidth v).todo = s.todo := rfl
@[simp] theorem State.setWidth_draws (s : State) (v : Word) : (s.setWidth v).draws = s.draws := rfl
@[simp] theorem State.setWidth_sent (s : State) (v : Word) : (s.setWidth v).sent = s.sent := rfl

@[simp] theorem State.setHeight_fault (s : State) (v : Word) : (s.setHeight v).fault = s.fault := rfl
@[simp] theorem State.setHeight_cause (s : State) (v : Word) : (s.setHeight v).cause = s.cause := rfl
@[simp] theorem State.setHeight_expect (s : State) (v : Word) : (s.setHeight v).expect = s.expect := rfl
@[simp] theorem State.setHeight_actual (s : State) (v : Word) : (s.setHeight v).actual = s.actual := rfl
@[simp] theorem State.setHeight_crc (s : State) (v : Word) : (s.setHeight v).crc = s.crc := rfl
@[simp] theorem State.setHeight_result (s : State) (v : Word) : (s.setHeight v).result = s.result := rfl
@[simp] theorem State.setHeight_width (s : State) (v : Word) : (s.setHeight v).width = s.width := rfl
@[simp] theorem State.setHeight_height (s : State) (v : Word) : (s.setHeight v).height = v := rfl
@[simp] theorem State.setHeight_tag (s : State) (v : Word) : (s.setHeight v).tag = s.tag := rfl
@[simp] theorem State.setHeight_ibuf (s : State) (v : Word) : (s.setHeight v).ibuf = s.ibuf := rfl
@[simp] theorem State.setHeight_phase (s : State) (v : Word) : (s.setHeight v).phase = s.phase := rfl
@[simp] theorem State.setHeight_out (s : State) (v : Word) : (s.setHeight v).out = s.out := rfl
@[simp] theorem State.setHeight_reads (s : State) (v : Word) : (s.setHeight v).reads = s.reads := rfl
@[simp] theorem State.setHeight_todo (s : State) (v : Word) : (s.setHeight v).todo = s.todo := rfl
@[simp] theorem State.setHeight_draws (s : State) (v : Word) : (s.setHeight v).draws = s.draws := rfl
@[simp] theorem State.setHeight_sent (s : State) (v : Word) : (s.setHeight v).sent = s.sent := rfl

@[simp] theorem State.setTag_fault (s : State) (v : Word) : (s.setTag v).fault = s.fault := rfl
@[simp] theorem State.setTag_cause (s : State) (v : Word) : (s.setTag v).cause = s.cause := rfl
@[simp] theorem State.setTag_expect (s : State) (v : Word) : (s.setTag v).expect = s.expect := rfl
@[simp] theorem State.setTag_actual (s : State) (v : Word) : (s.setTag v).actual = s.actual := rfl
@[simp] theorem State.setTag_crc (s : State) (v : Word) : (s.setTag v).crc = s.crc := rfl
@[simp] theorem State.setTag_result (s : State) (v : Word) : (s.setTag v).result = s.result := rfl
@[simp] theorem State.setTag_width (s : State) (v : Word) : (s.setTag v).width = s.width := rfl
@[simp] theorem State.setTag_height (s : State) (v : Word) : (s.setTag v).height = s.height := rfl
@[simp] theorem State.setTag_tag (s : State) (v : Word) : (s.setTag v).tag = v := rfl
@[simp] theorem State.setTag_ibuf (s : State) (v : Word) : (s.setTag v).ibuf = s.ibuf := rfl
@[simp] theorem State.setTag_phase (s : State) (v : Word) : (s.setTag v).phase = s.phase := rfl
@[simp] theorem State.setTag_out (s : State) (v : Word) : (s.setTag v).out = s.out := rfl
@[simp] theorem State.setTag_reads (s : State) (v : Word) : (s.setTag v).reads = s.reads := rfl
@[simp] theorem State.setTag_todo (s : State) (v : Word) : (s.setTag v).todo = s.todo := rfl
@[simp] theorem State.setTag_draws (s : State) (v : Word) : (s.setTag v).draws = s.draws := rfl
@[simp] theorem State.setTag_sent (s : State) (v : Word) : (s.setTag v).sent = s.sent := rfl

@[simp] theorem State.setIbuf_fault (s : State) (b : List Byte) : (s.setIbuf b).fault = s.fault := rfl
@[simp] theorem State.setIbuf_cause (s : State) (b : List Byte) : (s.setIbuf b).cause = s.cause := rfl
@[simp] theorem State.setIbuf_expect (s : State) (b : List Byte) : (s.setIbuf b).expect = s.expect := rfl
@[simp] theorem State.setIbuf_actual (s : State) (b : List Byte) : (s.setIbuf b).actual = s.actual := rfl
@[simp] theorem State.setIbuf_crc (s : State) (b : List Byte) : (s.setIbuf b).crc = s.crc := rfl
@[simp] theorem State.setIbuf_result (s : State) (b : List Byte) : (s.setIbuf b).result = s.result := rfl
@[simp] theorem State.setIbuf_width (s : State) (b : List Byte) : (s.setIbuf b).width = s.width := rfl
@[simp] theorem State.setIbuf_height (s : State) (b : List Byte) : (s.setIbuf b).height = s.height := rfl
@[simp] theorem State.setIbuf_tag (s : State) (b : List Byte) : (s.setIbuf b).tag = s.tag := rfl
@[simp] theorem State.setIbuf_ibuf (s : State) (b : List Byte) : (s.setIbuf b).ibuf = b := rfl
@[simp] theorem State.setIbuf_phase (s : State) (b : List Byte) : (s.setIbuf b).phase = s.phase := rfl
@[simp] theorem State.setIbuf_out (s : State) (b : List Byte) : (s.setIbuf b).out = s.out := rfl
@[simp] theorem State.setIbuf_reads (s : State) (b : List Byte) : (s.setIbuf b).reads = s.reads := rfl
@[simp] theorem State.setIbuf_todo (s : State) (b : List Byte) : (s.setIbuf b).todo = s.todo := rfl
@[simp] theorem State.setIbuf_draws (s : State) (b : List Byte) : (s.setIbuf b).draws = s.draws := rfl
@[simp] theorem State.setIbuf_sent (s : State) (b : List Byte) : (s.setIbuf b).sent = s.sent := rfl

@[simp] theorem State.setPhase_fault (s : State) (p : Phase) : (s.setPhase p).fault = s.fault := rfl
@[simp] theorem State.setPhase_cause (s : State) (p : Phase) : (s.setPhase p).cause = s.cause := rfl
@[simp] theorem State.setPhase_expect (s : State) (p : Phase) : (s.setPhase p).expect = s.expect := rfl
@[simp] theorem State.setPhase_actual (s : State) (p : Phase) : (s.setPhase p).actual = s.actual := rfl
@[simp] theorem State.setPhase_crc (s : State) (p : Phase) : (s.setPhase p).crc = s.crc := rfl
@[simp] theorem State.setPhase_result (s : State) (p : Phase) : (s.setPhase p).result = s.result := rfl
@[simp] theorem State.setPhase_width (s : State) (p : Phase) : (s.setPhase p).width = s.width := rfl
@[simp] theorem State.setPhase_height (s : State) (p : Phase) : (s.setPhase p).height = s.height := rfl
@[simp] theorem State.setPhase_tag (s : State) (p : Phase) : (s.setPhase p).tag = s.tag := rfl
@[simp] theorem State.setPhase_ibuf (s : State) (p : Phase) : (s.setPhase p).ibuf = s.ibuf := rfl
@[simp] theorem State.setPhase_phase (s : State) (p : Phase) : (s.setPhase p).phase = p := rfl
@[simp] theorem State.setPhase_out (s : State) (p : Phase) : (s.setPhase p).out = s.out := rfl
@[simp] theorem State.setPhase_reads (s : State) (p : Phase) : (s.setPhase p).reads = s.reads := rfl
@[simp] theorem State.setPhase_todo (s : State) (p : Phase) : (s.setPhase p).todo = s.todo := rfl
@[simp] theorem State.setPhase_draws (s : State) (p : Phase) : (s.setPhase p).draws = s.draws := rfl
@[simp] theorem State.setPhase_sent (s : State) (p : Phase) : (s.setPhase p).sent = s.sent := rfl

@[simp] theorem State.addPacket_fault (s : State) (p : List Byte) : (s.addPacket p).fault = s.fault := rfl
@[simp] theorem State.addPacket_cause (s : State) (p : List Byte) : (s.addPacket p).cause = s.cause := rfl
@[simp] theorem State.addPacket_expect (s : State) (p : List Byte) : (s.addPacket p).expect = s.expect := rfl
@[simp] theorem State.addPacket_actual (s : State) (p : List Byte) : (s.addPacket p).actual = s.actual := rfl
@[simp] theorem State.addPacket_crc (s : State) (p : List Byte) : (s.addPacket p).crc = s.crc := rfl
@[simp] theorem State.addPacket_result (s : State) (p : List Byte) : (s.addPacket p).result = s.result := rfl
@[simp] theorem State.addPacket_width (s : State) (p : List Byte) : (s.addPacket p).width = s.width := rfl
@[simp] theorem State.addPacket_height (s : State) (p : List Byte) : (s.addPacket p).height = s.height := rfl
@[simp] theorem State.addPacket_tag (s : State) (p : List Byte) : (s.addPacket p).tag = s.tag := rfl
@[simp] theorem State.addPacket_ibuf (s : State) (p : List Byte) : (s.addPacket p).ibuf = s.ibuf := rfl
@[simp] theorem State.addPacket_phase (s : State) (p : List Byte) : (s.addPacket p).phase = s.phase := rfl
@[simp] theorem State.addPacket_out (s : State) (p : List Byte) : (s.addPacket p).out = s.out ++ [p] := rfl
@[simp] theorem State.addPacket_reads (s : State) (p : List Byte) : (s.addPacket p).reads = s.reads := rfl
@[simp] theorem State.addPacket_todo (s : State) (p : List Byte) : (s.addPacket p).todo = s.todo := rfl
@[simp] theorem State.addPacket_draws (s : State) (p : List Byte) : (s.addPacket p).draws = s.draws := rfl
@[simp] theorem State.addPacket_sent (s : State) (p : List Byte) : (s.addPacket p).sent = s.sent := rfl

@[simp] theorem State.addRead_fault (s : State) (v : Word) : (s.addRead v).fault = s.fault := rfl
@[simp] theorem State.addRead_cause (s : State) (v : Word) : (s.addRead v).cause = s.cause := rfl
@[simp] theorem State.addRead_expect (s : State) (v : Word) : (s.addRead v).expect = s.expect := rfl
@[simp] theorem State.addRead_actual (s : State) (v : Word) : (s.addRead v).actual = s.actual := rfl
@[simp] theorem State.addRead_crc (s : State) (v : Word) : (s.addRead v).crc = s.crc := rfl
@[simp] theorem State.addRead_result (s : State) (v : Word) : (s.addRead v).result = s.result := rfl
@[simp] theorem State.addRead_width (s : State) (v : Word) : (s.addRead v).width = s.width := rfl
@[simp] theorem State.addRead_height (s : State) (v : Word) : (s.addRead v).height = s.height := rfl
@[simp] theorem State.addRead_tag (s : State) (v : Word) : (s.addRead v).tag = s.tag := rfl
@[simp] theorem State.addRead_ibuf (s : State) (v : Word) : (s.addRead v).ibuf = s.ibuf := rfl
@[simp] theorem State.addRead_phase (s : State) (v : Word) : (s.addRead v).phase = s.phase := rfl
@[simp] theorem State.addRead_out (s : State) (v : Word) : (s.addRead v).out = s.out := rfl
@[simp] theorem State.addRead_reads (s : State) (v : Word) : (s.addRead v).reads = s.reads ++ [v] := rfl
@[simp] theorem State.addRead_todo (s : State) (v : Word) : (s.addRead v).todo = s.todo := rfl
@[simp] theorem State.addRead_draws (s : State) (v : Word) : (s.addRead v).draws = s.draws := rfl
@[simp] theorem State.addRead_sent (s : State) (v : Word) : (s.addRead v).sent = s.sent := rfl

@[simp] theorem State.setTodo_fault (s : State) (as : List HostAction) : (s.setTodo as).fault = s.fault := rfl
@[simp] theorem State.setTodo_cause (s : State) (as : List HostAction) : (s.setTodo as).cause = s.cause := rfl
@[simp] theorem State.setTodo_expect (s : State) (as : List HostAction) : (s.setTodo as).expect = s.expect := rfl
@[simp] theorem State.setTodo_actual (s : State) (as : List HostAction) : (s.setTodo as).actual = s.actual := rfl
@[simp] theorem State.setTodo_crc (s : State) (as : List HostAction) : (s.setTodo as).crc = s.crc := rfl
@[simp] theorem State.setTodo_result (s : State) (as : List HostAction) : (s.setTodo as).result = s.result := rfl
@[simp] theorem State.setTodo_width (s : State) (as : List HostAction) : (s.setTodo as).width = s.width := rfl
@[simp] theorem State.setTodo_height (s : State) (as : List HostAction) : (s.setTodo as).height = s.height := rfl
@[simp] theorem State.setTodo_tag (s : State) (as : List HostAction) : (s.setTodo as).tag = s.tag := rfl
@[simp] theorem State.setTodo_ibuf (s : State) (as : List HostAction) : (s.setTodo as).ibuf = s.ibuf := rfl
@[simp] theorem State.setTodo_phase (s : State) (as : List HostAction) : (s.setTodo as).phase = s.phase := rfl
@[simp] theorem State.setTodo_out (s : State) (as : List HostAction) : (s.setTodo as).out = s.out := rfl
@[simp] theorem State.setTodo_reads (s : State) (as : List HostAction) : (s.setTodo as).reads = s.reads := rfl
@[simp] theorem State.setTodo_todo (s : State) (as : List HostAction) : (s.setTodo as).todo = as := rfl
@[simp] theorem State.setTodo_draws (s : State) (as : List HostAction) : (s.setTodo as).draws = s.draws := rfl
@[simp] theorem State.setTodo_sent (s : State) (as : List HostAction) : (s.setTodo as).sent = s.sent := rfl

@[simp] theorem State.useDraw_fault (s : State) (raw : List Byte) : (s.useDraw raw).fault = s.fault := rfl
@[simp] theorem State.useDraw_cause (s : State) (raw : List Byte) : (s.useDraw raw).cause = s.cause := rfl
@[simp] theorem State.useDraw_expect (s : State) (raw : List Byte) : (s.useDraw raw).expect = s.expect := rfl
@[simp] theorem State.useDraw_actual (s : State) (raw : List Byte) : (s.useDraw raw).actual = s.actual := rfl
@[simp] theorem State.useDraw_crc (s : State) (raw : List Byte) : (s.useDraw raw).crc = s.crc := rfl
@[simp] theorem State.useDraw_result (s : State) (raw : List Byte) : (s.useDraw raw).result = s.result := rfl
@[simp] theorem State.useDraw_width (s : State) (raw : List Byte) : (s.useDraw raw).width = s.width := rfl
@[simp] theorem State.useDraw_height (s : State) (raw : List Byte) : (s.useDraw raw).height = s.height := rfl
@[simp] theorem State.useDraw_tag (s : State) (raw : List Byte) : (s.useDraw raw).tag = s.tag := rfl
@[simp] theorem State.useDraw_ibuf (s : State) (raw : List Byte) : (s.useDraw raw).ibuf = s.ibuf := rfl
@[simp] theorem State.useDraw_phase (s : State) (raw : List Byte) : (s.useDraw raw).phase = s.phase := rfl
@[simp] theorem State.useDraw_out (s : State) (raw : List Byte) : (s.useDraw raw).out = s.out := rfl
@[simp] theorem State.useDraw_reads (s : State) (raw : List Byte) : (s.useDraw raw).reads = s.reads := rfl
@[simp] theorem State.useDraw_todo (s : State) (raw : List Byte) : (s.useDraw raw).todo = s.todo := rfl
@[simp] theorem State.useDraw_draws (s : State) (raw : List Byte) : (s.useDraw raw).draws = s.draws.tail := rfl
@[simp] theorem State.useDraw_sent (s : State) (raw : List Byte) : (s.useDraw raw).sent = s.sent ++ [raw] := rfl

@[simp] theorem State.raise_fault (s : State) (c : Cause) (e : Nat) (a : Word) : (s.raise c e a).fault = true := rfl
@[simp] theorem State.raise_cause (s : State) (c : Cause) (e : Nat) (a : Word) : (s.raise c e a).cause = c := rfl
@[simp] theorem State.raise_expect (s : State) (c : Cause) (e : Nat) (a : Word) : (s.raise c e a).expect = BitVec.ofNat 66 e := rfl
@[simp] theorem State.raise_actual (s : State) (c : Cause) (e : Nat) (a : Word) : (s.raise c e a).actual = a := rfl
@[simp] theorem State.raise_crc (s : State) (c : Cause) (e : Nat) (a : Word) : (s.raise c e a).crc = s.crc := rfl
@[simp] theorem State.raise_result (s : State) (c : Cause) (e : Nat) (a : Word) : (s.raise c e a).result = s.result := rfl
@[simp] theorem State.raise_width (s : State) (c : Cause) (e : Nat) (a : Word) : (s.raise c e a).width = s.width := rfl
@[simp] theorem State.raise_height (s : State) (c : Cause) (e : Nat) (a : Word) : (s.raise c e a).height = s.height := rfl
@[simp] theorem State.raise_tag (s : State) (c : Cause) (e : Nat) (a : Word) : (s.raise c e a).tag = s.tag := rfl
@[simp] theorem State.raise_ibuf (s : State) (c : Cause) (e : Nat) (a : Word) : (s.raise c e a).ibuf = s.ibuf := rfl
@[simp] theorem State.raise_phase (s : State) (c : Cause) (e : Nat) (a : Word) : (s.raise c e a).phase = .idle := rfl
@[simp] theorem State.raise_out (s : State) (c : Cause) (e : Nat) (a : Word) : (s.raise c e a).out = s.out := rfl
@[simp] theorem State.raise_reads (s : State) (c : Cause) (e : Nat) (a : Word) : (s.raise c e a).reads = s.reads := rfl
@[simp] theorem State.raise_todo (s : State) (c : Cause) (e : Nat) (a : Word) : (s.raise c e a).todo = s.todo := rfl
@[simp] theorem State.raise_draws (s : State) (c : Cause) (e : Nat) (a : Word) : (s.raise c e a).draws = s.draws := rfl
@[simp] theorem State.raise_sent (s : State) (c : Cause) (e : Nat) (a : Word) : (s.raise c e a).sent = s.sent := rfl

@[simp] theorem State.toReset_fault (s : State) : s.toReset.fault = false := rfl
@[simp] theorem State.toReset_cause (s : State) : s.toReset.cause = .none := rfl
@[simp] theorem State.toReset_expect (s : State) : s.toReset.expect = 0 := rfl
@[simp] theorem State.toReset_actual (s : State) : s.toReset.actual = 0 := rfl
@[simp] theorem State.toReset_crc (s : State) : s.toReset.crc = 0xFFFFFFFF := rfl
@[simp] theorem State.toReset_result (s : State) : s.toReset.result = 0 := rfl
@[simp] theorem State.toReset_width (s : State) : s.toReset.width = 0 := rfl
@[simp] theorem State.toReset_height (s : State) : s.toReset.height = 0 := rfl
@[simp] theorem State.toReset_tag (s : State) : s.toReset.tag = 0 := rfl
@[simp] theorem State.toReset_ibuf (s : State) : s.toReset.ibuf = [] := rfl
@[simp] theorem State.toReset_phase (s : State) : s.toReset.phase = .idle := rfl
@[simp] theorem State.toReset_out (s : State) : s.toReset.out = s.out := rfl
@[simp] theorem State.toReset_reads (s : State) : s.toReset.reads = s.reads := rfl
@[simp] theorem State.toReset_todo (s : State) : s.toReset.todo = s.todo := rfl
@[simp] theorem State.toReset_draws (s : State) : s.toReset.draws = s.draws := rfl
@[simp] theorem State.toReset_sent (s : State) : s.toReset.sent = s.sent := rfl

@[simp] theorem State.reset_fault : State.reset.fault = false := rfl
@[simp] theorem State.reset_cause : State.reset.cause = .none := rfl
@[simp] theorem State.reset_expect : State.reset.expect = 0 := rfl
@[simp] theorem State.reset_actual : State.reset.actual = 0 := rfl
@[simp] theorem State.reset_crc : State.reset.crc = 0xFFFFFFFF := rfl
@[simp] theorem State.reset_result : State.reset.result = 0 := rfl
@[simp] theorem State.reset_width : State.reset.width = 0 := rfl
@[simp] theorem State.reset_height : State.reset.height = 0 := rfl
@[simp] theorem State.reset_tag : State.reset.tag = 0 := rfl
@[simp] theorem State.reset_ibuf : State.reset.ibuf = [] := rfl
@[simp] theorem State.reset_phase : State.reset.phase = .idle := rfl
@[simp] theorem State.reset_out : State.reset.out = [] := rfl
@[simp] theorem State.reset_reads : State.reset.reads = [] := rfl
@[simp] theorem State.reset_todo : State.reset.todo = [] := rfl
@[simp] theorem State.reset_draws : State.reset.draws = [] := rfl
@[simp] theorem State.reset_sent : State.reset.sent = [] := rfl

/-- An action on a block that is not faulted has its effect (R184). -/
theorem unlessFaulted_of_clear {s : State} (h : s.fault = false) (t : State) : unlessFaulted s t = t := by
  simp [unlessFaulted, h]

/-- An action on a faulted block is ignored (R184). -/
theorem unlessFaulted_of_fault {s : State} (h : s.fault = true) (t : State) : unlessFaulted s t = s := by
  simp [unlessFaulted, h]

/-- Everything the gate of the fault state can do: nothing, on a faulted block; the effect, on a clear one. -/
theorem unlessFaulted_cases (s t : State) :
    (s.fault = true ∧ unlessFaulted s t = s) ∨ (s.fault = false ∧ unlessFaulted s t = t) := by
  cases h : s.fault
  · exact .inr ⟨rfl, unlessFaulted_of_clear h t⟩
  · exact .inl ⟨rfl, unlessFaulted_of_fault h t⟩

/-- The draw of the next transaction is the one State lists, where it lists one (R130). -/
theorem State.nextDraw_of_listed {s : State} {a : DflAnswer} {as : List DflAnswer} (h : s.draws = a :: as) :
    s.nextDraw = a := by
  simp [State.nextDraw, h]

end Sys2Proof.Machine
end

