-- ==== Sys2Proof/Laws/Ops.lean ====
section
/-! SUPPORT. For each shared operation, once, everything it can do; proofs cite these and unfold nothing. -/

namespace Sys2Proof.Machine

/-- What a push can do (R165). -/
theorem pushByte_cases (cap : Nat) (s : State) (b : Byte) :
    (s.ibuf.length = cap ∧ pushByte cap s b = s.raise .inputOverflow cap (BitVec.ofNat 32 cap)) ∨
    (s.ibuf.length ≠ cap ∧ pushByte cap s b = s.setIbuf (s.ibuf ++ [b])) := by
  by_cases h : s.ibuf.length = cap
  · exact .inl ⟨h, if_pos h⟩
  · exact .inr ⟨h, if_neg h⟩

/-- What `CHUNK` can do on a block that is not faulted (R111, R114). -/
theorem chunkBuffer_cases (s : State) :
    (2 ^ 32 ≤ s.ibuf.length ∧ chunkBuffer s = s.raisePayloadOverflow) ∨
    (s.ibuf.length < 2 ^ 32 ∧
      chunkBuffer s = (s.checksum (tagBytes s ++ s.ibuf)).addPacket (frame (tagBytes s) s.ibuf)) := by
  by_cases h : s.ibuf.length < 2 ^ 32
  · exact .inr ⟨h, by simp only [chunkBuffer, chunk, if_pos h]⟩
  · exact .inl ⟨by omega, by simp only [chunkBuffer, chunk, if_neg h]⟩

theorem encodeImage_of_zero (D : Codec) {s : State} (h : s.width = 0 ∨ s.height = 0) :
    encodeImage D s = s.raiseSize .badDimension := if_pos h

theorem encodeImage_of_mismatch (D : Codec) {s : State} (hw : s.width ≠ 0) (hh : s.height ≠ 0)
    (hl : s.ibuf.length ≠ pixelBytes s.width s.height) : encodeImage D s = s.raiseSize .lengthMismatch := by
  rw [encodeImage, if_neg (not_or.2 ⟨hw, hh⟩), if_pos hl]

theorem encodeImage_of_err (D : Codec) {s : State} {e : Word} (hw : s.width ≠ 0) (hh : s.height ≠ 0)
    (hl : s.ibuf.length = pixelBytes s.width s.height) (hd : s.nextDraw = .err e) :
    encodeImage D s = (s.useDraw (rawImage s)).raise .compressFail 0 e := by
  rw [encodeImage, if_neg (not_or.2 ⟨hw, hh⟩), if_neg (not_not.2 hl), dflReply, hd]

theorem encodeImage_of_ok (D : Codec) {s : State} (hw : s.width ≠ 0) (hh : s.height ≠ 0)
    (hl : s.ibuf.length = pixelBytes s.width s.height) (hd : s.nextDraw = .ok) :
    encodeImage D s =
      if 2 ^ 32 ≤ (D.deflate (rawImage s)).length then (s.useDraw (rawImage s)).raisePayloadOverflow
      else (s.useDraw (rawImage s)).deliverPng (D.deflate (rawImage s)) := by
  rw [encodeImage, if_neg (not_or.2 ⟨hw, hh⟩), if_neg (not_not.2 hl), dflReply, hd]

/-- Everything `ENCODE` can do on a block that is not faulted, in the order of its tests (R144, R178). -/
theorem encodeImage_cases (D : Codec) (s : State) :
    ((s.width = 0 ∨ s.height = 0) ∧ encodeImage D s = s.raiseSize .badDimension) ∨
    (s.width ≠ 0 ∧ s.height ≠ 0 ∧
      ((s.ibuf.length ≠ pixelBytes s.width s.height ∧ encodeImage D s = s.raiseSize .lengthMismatch) ∨
      (s.ibuf.length = pixelBytes s.width s.height ∧
        ((∃ e, s.nextDraw = .err e ∧ encodeImage D s = (s.useDraw (rawImage s)).raise .compressFail 0 e) ∨
        (s.nextDraw = .ok ∧ 2 ^ 32 ≤ (D.deflate (rawImage s)).length ∧
          encodeImage D s = (s.useDraw (rawImage s)).raisePayloadOverflow) ∨
        (s.nextDraw = .ok ∧ (D.deflate (rawImage s)).length < 2 ^ 32 ∧
          encodeImage D s = (s.useDraw (rawImage s)).deliverPng (D.deflate (rawImage s))))))) := by
  by_cases hz : s.width = 0 ∨ s.height = 0
  · exact .inl ⟨hz, encodeImage_of_zero D hz⟩
  obtain ⟨hw, hh⟩ := not_or.1 hz
  refine .inr ⟨hw, hh, ?_⟩
  by_cases hl : s.ibuf.length = pixelBytes s.width s.height
  · refine .inr ⟨hl, ?_⟩
    cases hd : s.nextDraw with
    | err e => exact .inl ⟨e, rfl, encodeImage_of_err D hw hh hl hd⟩
    | ok =>
      have h := encodeImage_of_ok D hw hh hl hd
      by_cases hc : 2 ^ 32 ≤ (D.deflate (rawImage s)).length
      · exact .inr (.inl ⟨rfl, hc, h.trans (if_pos hc)⟩)
      · exact .inr (.inr ⟨rfl, by omega, h.trans (if_neg hc)⟩)
  · exact .inl ⟨hl, encodeImage_of_mismatch D hw hh hl⟩

/-- Everything a written command word can do (R166). -/
theorem writeCmd_cases (v : Word) (s : State) :
    (∃ i, decode v = .ok i ∧ writeCmd v s = exec i s) ∨
    (∃ e, decode v = .error e ∧ writeCmd v s = .next (unlessFaulted s (s.raise .illegalCommand 0 v))) := by
  cases h : decode v with
  | ok i => exact .inl ⟨i, rfl, by simp only [writeCmd, h]⟩
  | error e => exact .inr ⟨e, rfl, by simp only [writeCmd, h]⟩

/-- A register found at an offset has that offset (R36). -/
theorem regAt_some {off : Nat} {r : Reg} (h : regAt off = some r) : off = r.offset := by
  have h' := List.find?_some (p := fun r : Reg => r.offset == off) h
  exact (beq_iff_eq.1 h').symm

/-! What each write of the interface comes to, by its offset (R36, R163 to R166). -/

theorem hostAct_writeCmd (v : Word) (s : State) : hostAct (.regWrite .word 0x00 v) s = writeCmd v s := rfl

theorem hostAct_writeWidth (v : Word) (s : State) :
    hostAct (.regWrite .word 0x24 v) s = .next (unlessFaulted s (s.setWidth v)) := rfl

theorem hostAct_writeHeight (v : Word) (s : State) :
    hostAct (.regWrite .word 0x28 v) s = .next (unlessFaulted s (s.setHeight v)) := rfl

theorem hostAct_writeTag (v : Word) (s : State) :
    hostAct (.regWrite .word 0x2C v) s = .next (unlessFaulted s (s.setTag v)) := rfl

theorem hostAct_push (v : Word) (s : State) :
    hostAct (.regWrite .word 0x34 v) s = .next (unlessFaulted s (pushByte Config.ibufCap s (pushedByte v))) := rfl

/-- An aligned word write inside the register space is the write at its offset (R59). -/
theorem hostAct_regWrite {off : Nat} (h : off % 4 = 0) (hle : off ≤ 0xFC) (v : Word) (s : State) :
    hostAct (.regWrite .word off v) s = writeAt off v s := by
  simp [hostAct, accessLegal, h, hle]

/-- An aligned word read inside the register space records the value at its offset (R59, R164). -/
theorem hostAct_regRead {off : Nat} (h : off % 4 = 0) (hle : off ≤ 0xFC) (s : State) :
    hostAct (.regRead .word off) s = .next (s.addRead (readAt s off)) := by
  simp [hostAct, accessLegal, h, hle]

/-- The commands of a word that decodes run (R166). -/
theorem writeCmd_of_ok {v : Word} {i : Instr} (h : decode v = .ok i) (s : State) : writeCmd v s = exec i s := by
  simp only [writeCmd, h]

/-- Everything a write at an offset of the register space can do (R163 to R168). -/
theorem writeAt_cases (off : Nat) (v : Word) (s : State) :
    (off = 0x00 ∧ writeAt off v s = writeCmd v s) ∨
    (off = 0x24 ∧ writeAt off v s = .next (unlessFaulted s (s.setWidth v))) ∨
    (off = 0x28 ∧ writeAt off v s = .next (unlessFaulted s (s.setHeight v))) ∨
    (off = 0x2C ∧ writeAt off v s = .next (unlessFaulted s (s.setTag v))) ∨
    (off = 0x34 ∧ writeAt off v s = .next (unlessFaulted s (pushByte Config.ibufCap s (pushedByte v)))) ∨
    writeAt off v s = .next s := by
  by_cases h0 : off = 0x00
  · subst h0; exact .inl ⟨rfl, rfl⟩
  by_cases h1 : off = 0x24
  · subst h1; exact .inr (.inl ⟨rfl, rfl⟩)
  by_cases h2 : off = 0x28
  · subst h2; exact .inr (.inr (.inl ⟨rfl, rfl⟩))
  by_cases h3 : off = 0x2C
  · subst h3; exact .inr (.inr (.inr (.inl ⟨rfl, rfl⟩)))
  by_cases h4 : off = 0x34
  · subst h4; exact .inr (.inr (.inr (.inr (.inl ⟨rfl, rfl⟩))))
  refine .inr (.inr (.inr (.inr (.inr ?_))))
  unfold writeAt
  cases hr : regAt off with
  | none => rfl
  | some r =>
    have ho := regAt_some hr
    cases r <;> first | rfl | (exfalso; simp only [Reg.offset] at ho; omega)

/-- Everything a host action can do (R10): what an action that answers a next state was, and that state. -/
theorem hostAct_cases {a : HostAction} {s t : State} (h : hostAct a s = .next t) :
    (∃ off v, a = .regWrite .word off v ∧ off % 4 = 0 ∧ off ≤ 0xFC ∧ writeAt off v s = .next t) ∨
    (∃ off, a = .regRead .word off ∧ off % 4 = 0 ∧ off ≤ 0xFC ∧ t = s.addRead (readAt s off)) ∨
    (a = .hardReset ∧ t = s.toReset) ∨ (a = .nothing ∧ t = s) := by
  have legal : ∀ size off, accessLegal size off = true → size = .word ∧ off % 4 = 0 ∧ off ≤ 0xFC := by
    intro size off hl
    simpa [accessLegal, and_assoc] using hl
  cases a with
  | regWrite size off v =>
    simp only [hostAct] at h
    split at h
    · next hl =>
      obtain ⟨rfl, h1, h2⟩ := legal _ _ hl
      exact .inl ⟨off, v, rfl, h1, h2, h⟩
    · cases h
  | regRead size off =>
    simp only [hostAct] at h
    split at h
    · next hl =>
      obtain ⟨rfl, h1, h2⟩ := legal _ _ hl
      exact .inr (.inl ⟨off, rfl, h1, h2, (Host.Outcome.next.inj h).symm⟩)
    · cases h
  | hardReset => exact .inr (.inr (.inl ⟨rfl, (Host.Outcome.next.inj h).symm⟩))
  | nothing => exact .inr (.inr (.inr ⟨rfl, (Host.Outcome.next.inj h).symm⟩))

/-- Everything a step can do: nothing, or the host's oldest action (R10, R192). -/
theorem step_cases {s t : State} (h : step s = .next t) :
    (s.todo = [] ∧ t = s) ∨ (∃ a rest, s.todo = a :: rest ∧ hostAct a (s.setTodo rest) = .next t) := by
  unfold step stepHost at h
  split at h
  · next he => exact .inl ⟨he, (Host.Outcome.next.inj h).symm⟩
  · next a rest he => exact .inr ⟨a, rest, he, h⟩

/-- Every command answers a next state (R62, R213). -/
theorem exec_completes (i : Instr) (s : State) : ∃ t, exec i s = .next t := by
  cases i <;> exact ⟨_, rfl⟩

/-- A faulted block ignores every command but `RESET` (R184). -/
theorem exec_of_fault {i : Instr} {s : State} (h : s.fault = true) (hi : i ≠ .reset) : exec i s = .next s := by
  cases i <;> first
    | exact absurd rfl hi
    | simp only [exec, execNop, execInClr, execCrcInit, execCrcByte, execCrcFin, execCrc32, execChunk, execEncode,
        unlessFaulted_of_fault h]

/-- Everything a command other than `RESET` does on a block that is not faulted (R97 to R100, R114, R144, R160, R162). -/
theorem exec_of_clear {i : Instr} {s : State} (h : s.fault = false) (hi : i ≠ .reset) :
    exec i s = .next (match i with
      | .nop | .reset => s
      | .inClr => s.setIbuf []
      | .crcInit => s.setCrc crcStart
      | .crcByte b => s.setCrc (crcByte s.crc b)
      | .crcFin => s.setResult (~~~ s.crc)
      | .crc32 => s.checksum s.ibuf
      | .chunk => chunkBuffer s
      | .encode => encodeImage Config.codec s) := by
  cases i <;> first
    | exact absurd rfl hi
    | simp only [exec, execNop, execInClr, execCrcInit, execCrcByte, execCrcFin, execCrc32, execChunk, execEncode,
        unlessFaulted_of_clear h]

/-- A run over a list and another is the run over the second from where the first ends (R215). -/
theorem runActions_append (as bs : List HostAction) {s t : State} (h : runActions as s = .next t) :
    runActions (as ++ bs) s = runActions bs t := by
  induction as generalizing s with
  | nil => cases h; rfl
  | cons a as ih =>
    simp only [List.cons_append, runActions] at h ⊢
    split at h <;> simp_all

/-- `be32` is four bytes long (R8). -/
@[simp] theorem be32_length (v : Word) : (be32 v).length = 4 := rfl

/-- A chunk of a four-byte tag is twelve bytes longer than its payload (R111). -/
theorem frame_length {t : List Byte} (h : t.length = 4) (p : List Byte) : (frame t p).length = 12 + p.length := by
  simp [frame, h]; omega

/-- A row of the raw buffer inside the image is one filter byte and `4 * W` pixel bytes (R121). -/
theorem scanRow_length {w : Word} {pix : List Byte} {y : Nat} (h : y * (4 * w.toNat) + 4 * w.toNat ≤ pix.length) :
    (scanRow w pix y).length = 1 + 4 * w.toNat := by
  simp [scanRow]; omega

/-- The input buffer keeps its form under a push and under a clear (R20, R39); no other operation writes it. -/
theorem Memory.wf_pushByte {s : State} (h : Memory.wf s.ibuf = true) (b : Byte) :
    Memory.wf (pushByte Config.ibufCap s b).ibuf = true := by
  simp only [Memory.wf, decide_eq_true_eq] at *
  rcases pushByte_cases Config.ibufCap s b with ⟨_, he⟩ | ⟨hne, he⟩
  · rw [he]; exact h
  · rw [he]; simp; omega

theorem Memory.wf_nil : Memory.wf [] = true := by simp [Memory.wf]

theorem Memory.wf_reset : Memory.wf State.reset.ibuf = true := Memory.wf_nil

end Sys2Proof.Machine
end

