-- ==== Sys2Proof/Laws/PerInstr.lean ====
section
/-! SUPPORT. The shape of every command's word (rules R70, R72, R73), one lemma per command. -/

namespace Sys2Proof.Laws.EncodingShape

/-- The command is well formed, and its word is its opcode, sixteen zero bits and its operand (R70, R72, R73). -/
def Statement (i : Sys2Proof.Instr) : Prop :=
  i.wellFormed = true ∧ Sys2Proof.opcodeField (Sys2Proof.encode i) = i.opcode ∧
    Sys2Proof.zeroField (Sys2Proof.encode i) = 0 ∧ Sys2Proof.imm8Field (Sys2Proof.encode i) = i.operand

theorem nop : Statement .nop := by unfold Statement; decide

theorem reset : Statement .reset := by unfold Statement; decide

theorem inClr : Statement .inClr := by unfold Statement; decide

theorem crcInit : Statement .crcInit := by unfold Statement; decide

theorem crcByte_all : ∀ b : Sys2Proof.Byte,
    Sys2Proof.opcodeField (Sys2Proof.encode (.crcByte b)) = 0x11 ∧ Sys2Proof.zeroField (Sys2Proof.encode (.crcByte b)) = 0 ∧
      Sys2Proof.imm8Field (Sys2Proof.encode (.crcByte b)) = b := by decide +kernel

theorem crcByte (imm8 : Sys2Proof.Byte) : Statement (.crcByte imm8) := ⟨rfl, crcByte_all imm8⟩

theorem crcFin : Statement .crcFin := by unfold Statement; decide

theorem crc32 : Statement .crc32 := by unfold Statement; decide

theorem chunk : Statement .chunk := by unfold Statement; decide

theorem encode : Statement .encode := by unfold Statement; decide

end Sys2Proof.Laws.EncodingShape
end

