-- ==== Sys2Proof/Tests/Slice0.lean ====
section
/-! SUPPORT. The model's own tests: words decoded, ill-formed terms refused, single steps against the vectors of 95_test_vectors.md, and for
every statement with hypotheses a state and operands that meet them. -/

namespace Sys2Proof.Tests

open Sys2Proof Sys2Proof.Machine

/-! ### Helpers -/

/-- The next state of an outcome, if it is one. -/
def after : Host.Outcome State Fault Refusal → Option State
  | .next t => some t
  | .fault _ | .refused _ => none

/-- The reset state with a 1 by 1 red image, and the unit's answers to come (95_test_vectors.md V1). -/
def red (draws : List DflAnswer) : State :=
  { State.reset with width := 1, height := 1, ibuf := [0xFF, 0x00, 0x00, 0xFF], draws := draws }

/-- The end state of vector F4: a 1 by 1 image one byte short, refused; with the `CRC` and `TAG` of the table of section 2.9. -/
def faulted : State :=
  { State.reset with
    fault := true, cause := .lengthMismatch, expect := 4, actual := 3, crc := 5, width := 1, height := 1, tag := 7, ibuf := [1, 2, 3] }

/-- The raw buffers and the `deflate_A` streams of section 2.7. -/
def rawV1 : List Byte := [0x00, 0xFF, 0x00, 0x00, 0xFF]
def rawV4 : List Byte := [0x00, 0x01, 0x02, 0x03, 0x00, 0x04, 0x05, 0x06, 0xFF]
def rawV3 : List Byte :=
  [0x00, 0x10, 0x11, 0x12, 0x13, 0x14, 0x15, 0x16, 0x17, 0x00, 0x18, 0x19, 0x1A, 0x1B, 0x1C, 0x1D, 0x1E, 0x1F]
def cmpV1 : List Byte := [0x78, 0x9C, 0x63, 0xF8, 0xCF, 0xC0, 0xF0, 0x1F, 0x00, 0x05, 0x00, 0x01, 0xFF]
def cmpV4 : List Byte := [0x78, 0x9C, 0x63, 0x60, 0x64, 0x62, 0x66, 0x60, 0x61, 0x65, 0xFB, 0x0F, 0x00, 0x01, 0x5B, 0x01, 0x15]
def cmpV3 : List Byte :=
  [0x78, 0x9C, 0x63, 0x10, 0x10, 0x14, 0x12, 0x16, 0x11, 0x15, 0x13, 0x67, 0x90, 0x90, 0x94, 0x92, 0x96, 0x91, 0x95, 0x93, 0x07,
    0x00, 0x0B, 0xD6, 0x01, 0x79]

/-- A codec that holds the three pairs of `deflate_A` of section 2.7; any other buffer is stored behind a zero byte. -/
def codecA : Codec where
  deflate r := if r = rawV1 then cmpV1 else if r = rawV4 then cmpV4 else if r = rawV3 then cmpV3 else 0#8 :: r
  inflate c := if c = cmpV1 then some rawV1 else if c = cmpV4 then some rawV4 else if c = cmpV3 then some rawV3 else some c.tail
  inflate_deflate r := by
    have h1 : (0#8 :: r) ≠ cmpV1 := by simp [cmpV1]
    have h2 : (0#8 :: r) ≠ cmpV4 := by simp [cmpV4]
    have h3 : (0#8 :: r) ≠ cmpV3 := by simp [cmpV3]
    by_cases e1 : r = rawV1
    · subst e1; rfl
    by_cases e2 : r = rawV4
    · subst e2; rfl
    by_cases e3 : r = rawV3
    · subst e3; rfl
    simp [e1, e2, e3, h1, h2, h3]

/-- A codec whose every stream is too long for a length field (vector F11). -/
def codecLong : Codec where
  deflate r := List.replicate (2 ^ 32) 0x00 ++ r
  inflate c := some (c.drop (2 ^ 32))
  inflate_deflate r := by rw [List.drop_left' (List.length_replicate ..)]

theorem cap_pos : 1 ≤ Config.ibufCap := Nat.le_add_left 1 _

theorem cap_lt : Config.ibufCap < 2 ^ 32 := by
  have := Config.ibufCapPred.isLt
  unfold Config.ibufCap; omega

/-- A buffer filled to its capacity. -/
def full : State := { State.reset with ibuf := List.replicate Config.ibufCap 0x00 }

theorem full_length : full.ibuf.length = Config.ibufCap := List.length_replicate ..

/-- The fault registers an `ENCODE` leaves. -/
def record (s : State) : Option (Cause × List Word) :=
  (after (exec .encode s)).map fun t => (t.cause, [expect2Word t, expect1Word t, expect0Word t, t.actual])

/-- Every command answers some next state, so a hypothesis that names one is met. -/
theorem exec_some (i : Instr) (s : State) : ∃ t, exec i s = .next t := exec_completes i s

/-! ### Ill-formed terms -/

theorem test_every_command_is_wellFormed : Instr.wellFormed (.crcByte 0xFF) = true ∧ Instr.wellFormed .nop = true := by decide

theorem test_word_access_is_wellFormed : (HostAction.regRead .word 0xFC).wellFormed = true := by decide

theorem test_byte_access_is_illFormed : (HostAction.regWrite .byte 0x34 0xFF).wellFormed = false := by decide

theorem test_half_access_is_illFormed : (HostAction.regRead .half 0x04).wellFormed = false := by decide

theorem test_misaligned_access_is_illFormed : (HostAction.regRead .word 0x02).wellFormed = false := by decide

theorem test_access_outside_is_illFormed : (HostAction.regRead .word 0x100).wellFormed = false := by decide

theorem test_wr_names_only_argument_registers :
    (AsmLine.wr .tag 0).wellFormed = true ∧ (AsmLine.wr .crc 0).wellFormed = false ∧ (AsmLine.wr .cmd 0).wellFormed = false := by decide

/-- Section 2.9, last row: such an access is refused by name and changes nothing. -/
theorem test_refused_accesses :
    hostAct (.regRead .word 0x02) State.reset = .refused (.outsideInterface .word 0x02) ∧
      hostAct (.regWrite .byte 0x34 0xFF) State.reset = .refused (.outsideInterface .byte 0x34) := ⟨rfl, rfl⟩

/-! ### Decoding: words written out bit by bit from R70 to R73 (opcode 31:24, zero 23:8, imm8 7:0) -/

theorem test_decode_nop : decode 0b00000000_0000000000000000_00000000 = .ok .nop := by decide

theorem test_decode_reset : decode 0b00000001_0000000000000000_00000000 = .ok .reset := by decide

theorem test_decode_in_clr : decode 0b00000010_0000000000000000_00000000 = .ok .inClr := by decide

theorem test_decode_crc_init : decode 0b00010000_0000000000000000_00000000 = .ok .crcInit := by decide

theorem test_decode_crc_byte : decode 0b00010001_0000000000000000_10000000 = .ok (.crcByte 0x80) := by decide

theorem test_decode_crc_fin : decode 0b00010010_0000000000000000_00000000 = .ok .crcFin := by decide

theorem test_decode_crc32 : decode 0b00010011_0000000000000000_00000000 = .ok .crc32 := by decide

theorem test_decode_chunk : decode 0b00100000_0000000000000000_00000000 = .ok .chunk := by decide

theorem test_decode_encode : decode 0b00110000_0000000000000000_00000000 = .ok .encode := by decide

/-- The illegal words of section 2.8, each by its reason. -/
theorem test_decode_illegal :
    decode 0x01000100 = .error (.strayBits 0x01) ∧ decode 0x0F000000 = .error (.unmappedOpcode 0x0F) ∧
      decode 0x11FF0031 = .error (.strayBits 0x11) ∧ decode 0x12000001 = .error (.strayBits 0x12) ∧
      decode 0x14000000 = .error (.unmappedOpcode 0x14) ∧ decode 0x80000000 = .error (.unmappedOpcode 0x80) := by decide

theorem test_encode_words :
    encode (.crcByte 0x31) = 0x11000031 ∧ encode .chunk = 0x20000000 ∧ encode .encode = 0x30000000 := by decide

/-! ### One step of each command (95_test_vectors.md, sections 2.2, 2.5, 2.7, 2.9, 2.10) -/

/-- Section 2.10: `NOP` does nothing, in the fault state too. -/
theorem test_nop : after (exec .nop faulted) = some faulted ∧ after (exec .nop (red [])) = some (red []) := ⟨rfl, rfl⟩

/-- Section 2.9: `RESET` and `HRESET` from the faulted state give the reset state. -/
theorem test_reset : after (exec .reset faulted) = some State.reset ∧ after (hostAct .hardReset faulted) = some State.reset := ⟨rfl, rfl⟩

/-- Section 2.9: `IN.CLR` empties the buffer and nothing else. -/
theorem test_in_clr : after (exec .inClr (red [])) = some { red [] with ibuf := [] } := rfl

/-- Section 2.2, row 1: `RESULT` is kept. -/
theorem test_crc_init :
    after (exec .crcInit { State.reset with crc := 0x12345678, result := 9 }) = some { State.reset with crc := 0xFFFFFFFF, result := 9 } :=
  rfl

/-- Section 2.1: from the start value, and from the value `ENCODE` leaves (program P6). -/
theorem test_crc_byte :
    (after (exec (.crcByte 0x31) State.reset)).map State.crc = some 0x7C231048 ∧
      (after (exec (.crcByte 0x31) { State.reset with crc := 0x51BD9F7D })).map State.crc = some 0x7F3BB024 := by decide +kernel

/-- Section 2.2: `RESULT` is the complement, `CRC` is kept. -/
theorem test_crc_fin :
    after (exec .crcFin { State.reset with crc := 0x7C231048 }) =
      some { State.reset with crc := 0x7C231048, result := 0x83DCEFB7 } := by decide +kernel

/-- Section 2.2: the check string, and the empty buffer whatever `CRC` held. -/
theorem test_crc32 :
    (after (exec .crc32 { State.reset with ibuf := [0x31, 0x32, 0x33, 0x34, 0x35, 0x36, 0x37, 0x38, 0x39] })).map
        (fun t => (t.crc, t.result)) = some (0x340BC6D9, 0xCBF43926) ∧
      (after (exec .crc32 { State.reset with crc := 5 })).map (fun t => (t.crc, t.result)) = some (0xFFFFFFFF, 0) := by decide +kernel

/-- Section 2.5, row 3: the chunk, its checksum, the buffer kept. -/
theorem test_chunk :
    after (exec .chunk { State.reset with tag := 0x61626364, ibuf := [1, 2, 3] }) =
      some { State.reset with
        tag := 0x61626364, ibuf := [1, 2, 3], crc := 0xCA45FD47, result := 0x35BA02B8
        out := [[0x00, 0x00, 0x00, 0x03, 0x61, 0x62, 0x63, 0x64, 0x01, 0x02, 0x03, 0x35, 0xBA, 0x02, 0xB8]] } := by decide +kernel

/-- Section 2.5, row 1: the IEND chunk, from a word placed for the next step. -/
theorem test_chunk_step :
    (after (step (State.withFetchWord { State.reset with tag := 0x49454E44 } 32 0x20000000))).map State.out =
      some [[0x00, 0x00, 0x00, 0x00, 0x49, 0x45, 0x4E, 0x44, 0xAE, 0x42, 0x60, 0x82]] := by decide +kernel

/-- Vectors V1 and V4: the file, and the engine after it. -/
theorem test_encode_file :
    (encodeImage codecA (red [.ok])).out =
        [[0x89, 0x50, 0x4E, 0x47, 0x0D, 0x0A, 0x1A, 0x0A] ++
          [0x00, 0x00, 0x00, 0x0D, 0x49, 0x48, 0x44, 0x52, 0x00, 0x00, 0x00, 0x01, 0x00, 0x00, 0x00, 0x01, 0x08, 0x06, 0x00, 0x00, 0x00,
            0x1F, 0x15, 0xC4, 0x89] ++
          [0x00, 0x00, 0x00, 0x0D, 0x49, 0x44, 0x41, 0x54, 0x78, 0x9C, 0x63, 0xF8, 0xCF, 0xC0, 0xF0, 0x1F, 0x00, 0x05, 0x00, 0x01, 0xFF,
            0x89, 0x99, 0x3D, 0x1D] ++
          [0x00, 0x00, 0x00, 0x00, 0x49, 0x45, 0x4E, 0x44, 0xAE, 0x42, 0x60, 0x82]] ∧
      (encodeImage codecA (red [.ok])).crc = 0x51BD9F7D ∧ (encodeImage codecA (red [.ok])).result = 0xAE426082 ∧
      (encodeImage codecA { red [.ok] with width := 2, ibuf := [1, 2, 3, 0, 4, 5, 6, 0xFF] }).out =
        [[0x89, 0x50, 0x4E, 0x47, 0x0D, 0x0A, 0x1A, 0x0A] ++
          [0x00, 0x00, 0x00, 0x0D, 0x49, 0x48, 0x44, 0x52, 0x00, 0x00, 0x00, 0x02, 0x00, 0x00, 0x00, 0x01, 0x08, 0x06, 0x00, 0x00, 0x00,
            0xF4, 0x22, 0x7F, 0x8A] ++
          [0x00, 0x00, 0x00, 0x11, 0x49, 0x44, 0x41, 0x54, 0x78, 0x9C, 0x63, 0x60, 0x64, 0x62, 0x66, 0x60, 0x61, 0x65, 0xFB, 0x0F, 0x00,
            0x01, 0x5B, 0x01, 0x15, 0xBA, 0x7C, 0x71, 0x2B] ++
          [0x00, 0x00, 0x00, 0x00, 0x49, 0x45, 0x4E, 0x44, 0xAE, 0x42, 0x60, 0x82]] := by decide +kernel

/-- Vectors F3, F7, F8, F9: the cause, the three words of `EXPECT`, `ACTUAL`; and F11, an overlong stream. -/
theorem test_encode_faults :
    record { State.reset with width := 7 } = some (.badDimension, [0, 0, 0, 0]) ∧
      record { State.reset with width := 0x10000, height := 0x10000 } = some (.lengthMismatch, [0, 4, 0, 0]) ∧
      record { State.reset with width := 0xFFFFFFFF, height := 0xFFFFFFFF, ibuf := [1, 2, 3, 4] } =
        some (.lengthMismatch, [3, 0xFFFFFFF8, 4, 4]) ∧
      record (red [.err 0xDEADBEEF]) = some (.compressFail, [0, 0, 0, 0xDEADBEEF]) ∧
      (encodeImage codecLong (red [.ok])).cause = .payloadOverflow := by
  have h : 2 ^ 32 ≤ (codecLong.deflate (rawImage (red [.ok]))).length := by
    rw [show codecLong.deflate (rawImage (red [.ok])) = List.replicate (2 ^ 32) 0x00 ++ rawImage (red [.ok]) from rfl,
      List.length_append, List.length_replicate]
    omega
  refine ⟨by decide +kernel, by decide +kernel, by decide +kernel, by decide +kernel, ?_⟩
  rw [encodeImage_of_ok codecLong (by decide) (by decide) (by decide) rfl]
  exact congrArg State.cause (if_pos h)

/-! ### The units and the register interface -/

/-- Section 2.1, the trace of `crc_bit`. -/
theorem test_crc_bit : crcBit 0x00000001 = 0xEDB88320 ∧ crcBit 0xFFFFFFFF = 0x92477CDF ∧ crcBit 0x80000000 = 0x40000000 := by decide

/-- Section 2.3. -/
theorem test_be32 : be32 0x01020304 = [0x01, 0x02, 0x03, 0x04] ∧ be32 240 = [0x00, 0x00, 0x00, 0xF0] := by decide

/-- Section 2.6: the filter byte's place depends on the width. -/
theorem test_scan :
    scan 2 1 [1, 2, 3, 0, 4, 5, 6, 0xFF] = [0, 1, 2, 3, 0, 4, 5, 6, 0xFF] ∧
      scan 1 2 [0x0A, 0x0B, 0x0C, 0x0D, 0x1A, 0x1B, 0x1C, 0x1D] = [0, 0x0A, 0x0B, 0x0C, 0x0D, 0, 0x1A, 0x1B, 0x1C, 0x1D] := by
  decide +kernel

/-- Section 2.5: a chunk with a wrong checksum does not parse. -/
theorem test_unchunk :
    unchunk [0, 0, 0, 3, 0x61, 0x62, 0x63, 0x64, 1, 2, 3, 0x35, 0xBA, 0x02, 0xB8] = some ([0x61, 0x62, 0x63, 0x64], [1, 2, 3]) ∧
      unchunk [0, 0, 0, 3, 0x61, 0x62, 0x63, 0x64, 1, 2, 3, 0x35, 0xBA, 0x02, 0xB9] = none := by decide +kernel

/-- Section 2.9: bits 31:8 of a pushed word are ignored. Vector F14: a push into a full buffer of four bytes. -/
theorem test_push :
    (pushByte 4 State.reset (pushedByte 0x1FF)).ibuf = [0xFF] ∧
      (pushByte 4 (red []) 0xAA).ibuf = (red []).ibuf ∧ (pushByte 4 (red []) 0xAA).cause = .inputOverflow ∧
      (pushByte 4 (red []) 0xAA).expect = 4 ∧ (pushByte 4 (red []) 0xAA).actual = 4 := by decide

/-- Section 2.9: a write to a read-only register is ignored, and what the fault state reads. -/
theorem test_register_accesses :
    after (hostAct (.regWrite .word 0x1C 0) faulted) = some faulted ∧
      (after (hostAct (.regRead .word 0x04) faulted)).map State.reads = some [2] ∧
      (after (hostAct (.regRead .word 0x08) faulted)).map State.reads = some [2] ∧
      (after (hostAct (.regRead .word 0x34) faulted)).map State.reads = some [0] := by decide

/-- Section 2.10, the fault state: none of these changes anything. -/
theorem test_fault_state :
    after (hostAct (.regWrite .word 0x34 0x11) faulted) = some faulted ∧ after (hostAct (.regWrite .word 0x24 9) faulted) = some faulted ∧
      after (exec .encode faulted) = some faulted ∧ after (hostAct (.regWrite .word 0x00 0x03000000) faulted) = some faulted :=
  ⟨rfl, rfl, rfl, rfl⟩

/-- R79, R80: lines of programs P1 to P3 of section 3 as text. -/
theorem test_parse :
    parseLine "CRC.BYTE 0x31       ; W 00 11000031" = some (.command (.crcByte 0x31)) ∧ parseLine "LOAD 1, 2, 3" = some (.load [1, 2, 3]) ∧
      parseLine "SETTAG \"IEND\"" = some (.setTag 0x49 0x45 0x4E 0x44) ∧ parseLine "WR CRC, 0" = none ∧
      parseLine "                    ; W 00 02000000 ; W 34 000000FF" = none := by decide +kernel

/-- R81: the bus actions of a program line as text (program P2). -/
theorem test_bus_text :
    (assemble [.load [0x31], .setTag 0x49 0x45 0x4E 0x44, .rd .ilen]).map HostAction.busText =
      [some "W 00 02000000", some "W 34 00000031", some "W 2C 49454E44", some "R 30"] ∧
      HostAction.busText (.regRead .word 0x100) = none := by decide +kernel

/-! ### Witnesses: for each statement with hypotheses, in the order of the statements, values that meet them -/

theorem witness_StepRunsTheDecodedCommand :
    ({ State.reset with todo := [.regWrite .word 0x00 0x10000000] } : State).todo = .regWrite .word 0x00 0x10000000 :: [] ∧
      decode 0x10000000 = .ok .crcInit ∧ Instr.wellFormed .crcInit = true ∧
      decodeTableWord 32 0x20000000 = some .chunk ∧ Instr.wellFormed .chunk = true := by decide

theorem witness_StepsPlayTheActionList :
    State.reset.todo = [] ∧ (State.setTodo State.reset [.hardReset]).todo = .hardReset :: [] ∧
      runActions [.regRead .word 0x1C] State.reset = .next { State.reset with reads := [0xFFFFFFFF] } ∧
      runActions [.hardReset, .regRead .byte 0x1C] State.reset = .refused (.outsideInterface .byte 0x1C) := ⟨rfl, rfl, rfl, rfl⟩

theorem witness_LegalActionsCompleteOthersAreRefused :
    (HostAction.regWrite .word 0xFC 0).wellFormed = true ∧
      ¬ (AccessSize.double = .word ∧ 0x00 % 4 = 0 ∧ 0x00 ≤ 0xFC) ∧ ¬ (AccessSize.word = .word ∧ 0x100 % 4 = 0 ∧ 0x100 ≤ 0xFC) ∧
      ¬ (AccessSize.word = .word ∧ 0x02 % 4 = 0 ∧ 0x02 ≤ 0xFC) ∧
      ∀ l ∈ [AsmLine.wr .tag 1, .rd .crc, .hreset], l.wellFormed = true := by decide

theorem witness_ReadsReturnTheRegisters :
    0x3C % 4 = 0 ∧ 0x3C ≤ 0x3C ∧ 0x3C ≤ 0xFC ∧ 0xFC % 4 = 0 ∧ 0x3C ≤ 0xFC ∧ 0xFC ≤ 0xFC := by decide

theorem witness_ArgumentRegistersTakeAnyWord : State.reset.fault = false := rfl

theorem witness_ReadOnlyAndReservedWritesAreIgnored :
    0x38 ∈ [0x04, 0x08, 0x0C, 0x10, 0x14, 0x18, 0x1C, 0x20, 0x30, 0x38] ∧ (0x3C % 4 = 0 ∧ 0x3C ≤ 0x3C ∧ 0x3C ≤ 0xFC) ∧
      (0xFC % 4 = 0 ∧ 0x3C ≤ 0xFC ∧ 0xFC ≤ 0xFC) := by decide

theorem witness_PushAppendsTheLowByteOrOverflows :
    State.reset.fault = false ∧ State.reset.ibuf.length ≠ Config.ibufCap ∧ full.fault = false ∧ full.ibuf.length = Config.ibufCap ∧
      full.ibuf.length + ([] : List Byte).length ≤ Config.ibufCap ∧
      State.reset.ibuf.length + (List.replicate Config.ibufCap (0xAA : Byte)).length ≤ Config.ibufCap := by
  have := cap_pos
  refine ⟨rfl, ?_, rfl, full_length, ?_, ?_⟩
  · show 0 ≠ _; omega
  · rw [full_length]; exact Nat.le_refl _
  · rw [List.length_replicate]; exact Nat.le_of_eq (Nat.zero_add _)

theorem witness_IllegalWordsRaiseIllegalCommand :
    State.reset.fault = false ∧ (decode 0x03000000).toOption = none ∧ (decode 0x00000001).toOption = none := by decide

theorem witness_InClrEmptiesTheBuffer : full.fault = false := rfl

theorem witness_CrcBitHalvesAndXors : (0xFFFFFFFF : Word).toNat % 2 = 1 ∧ (0xFFFFFFFE : Word).toNat % 2 = 0 := by decide

theorem witness_CrcInitStartsAChecksum : ({ State.reset with crc := 5 } : State).fault = false := rfl

theorem witness_CrcByteFeedsOneByte :
    (0x11000100 : Word).toNat / 2 ^ 24 = 0x11 ∧ (0x11000100 : Word).toNat / 2 ^ 8 % 2 ^ 16 ≠ 0 ∧
      (0x11FFFFFF : Word).toNat / 2 ^ 8 % 2 ^ 16 ≠ 0 ∧ ({ State.reset with crc := 5 } : State).fault = false := by decide

theorem witness_CrcFinComplementsIntoResult : State.reset.fault = false ∧ State.reset.crc = 0xFFFFFFFF := ⟨rfl, rfl⟩

theorem witness_Crc32ChecksumsTheBuffer :
    State.reset.fault = false ∧ State.reset.ibuf = [] ∧
      ({ State.reset with ibuf := [0x49, 0x45, 0x4E, 0x44] } : State).fault = false ∧
      ({ State.reset with ibuf := [0x49, 0x45, 0x4E, 0x44] } : State).ibuf = [0x49, 0x45, 0x4E, 0x44] := ⟨rfl, rfl, rfl, rfl⟩

theorem witness_BytewiseAndBufferedChecksumsAgree :
    State.reset.fault = false ∧ ([0x31] : List Byte).length ≤ Config.ibufCap ∧
      (List.replicate Config.ibufCap (0x31 : Byte)).length ≤ Config.ibufCap :=
  ⟨rfl, cap_pos, Nat.le_of_eq (List.length_replicate ..)⟩

theorem witness_ChunkFormatOrOverflow :
    tagIEND.length = 4 ∧ ([] : List Byte).length < 2 ^ 32 ∧ (List.replicate (2 ^ 32 - 1) (0x00 : Byte)).length < 2 ^ 32 ∧
      2 ^ 32 ≤ (List.replicate (2 ^ 32) (0x00 : Byte)).length ∧
      ({ State.reset with ibuf := List.replicate (2 ^ 32) 0x00 } : State).fault = false ∧
      2 ^ 32 ≤ ({ State.reset with ibuf := List.replicate (2 ^ 32) 0x00 } : State).ibuf.length := by
  simp only [List.length_replicate, List.length_nil]
  exact ⟨rfl, by omega, by omega, by omega, rfl, by omega⟩

theorem witness_ChunksParseBack :
    tagIEND.length = 4 ∧ ([] : List Byte).length < 2 ^ 32 ∧
      (∀ x ∈ [(tagIHDR, [0x01]), (tagIEND, ([] : List Byte))], x.1.length = 4 ∧ x.2.length < 2 ^ 32) ∧
      ([(tagIHDR, [0x01]), (tagIEND, ([] : List Byte))].flatMap fun x => frame x.1 x.2) =
        ([(tagIHDR, [0x01]), (tagIEND, ([] : List Byte))].flatMap fun y => frame y.1 y.2) := by
  refine ⟨rfl, by decide, ?_, rfl⟩
  decide

theorem witness_FramerUnitSendsTheChunk :
    ([0x01] : List Byte).length < 2 ^ 32 ∧ 2 ^ 32 ≤ (List.replicate (2 ^ 32) (0x00 : Byte)).length := by
  rw [List.length_replicate]; exact ⟨by decide, Nat.le_refl _⟩

theorem witness_ChunkEmitsTheBufferAsOneChunk :
    faulted.fault = true ∧ State.reset.fault = false ∧ State.reset.ibuf.length ≤ Config.ibufCap ∧ full.fault = false ∧ full.ibuf.length ≤ Config.ibufCap :=
  ⟨rfl, rfl, Nat.zero_le _, rfl, Nat.le_of_eq full_length⟩

theorem witness_ScanPutsAZeroBeforeEachRow :
    1 ≤ (1 : Word).toNat ∧ 1 ≤ (2 : Word).toNat ∧ ([1, 2, 3, 4, 5, 6, 7, 8] : List Byte).length = 4 * (1 : Word).toNat * (2 : Word).toNat ∧
      1 < (2 : Word).toNat ∧ 3 < 4 * (1 : Word).toNat ∧ (List.replicate 15360 (0x00 : Byte)).length = 15360 := by
  rw [List.length_replicate]; decide

theorem witness_UnscanRecoversThePixels :
    ([1, 2, 3, 4, 5, 6, 7, 8] : List Byte).length = pixelBytes 2 1 ∧ ([1, 2, 3, 4, 5, 6, 7, 9] : List Byte).length = pixelBytes 2 1 ∧
      scan 2 1 [1, 2, 3, 4, 5, 6, 7, 8] = scan 2 1 [1, 2, 3, 4, 5, 6, 7, 8] ∧
      1 < (2 : Word).toNat ∧ 0 < (1 : Word).toNat ∧ 3 < 4 := by
  refine ⟨by decide, by decide, rfl, by decide, by decide, by decide⟩

theorem witness_EncodeEmitsTheFile :
    (red [.ok]).fault = false ∧ (red [.ok]).width ≠ 0 ∧ (red [.ok]).height ≠ 0 ∧
      (red [.ok]).ibuf.length = 4 * (red [.ok]).width.toNat * (red [.ok]).height.toNat ∧ (red [.ok]).nextDraw = .ok ∧
      cmpV1 = codecA.deflate (scan (red [.ok]).width (red [.ok]).height (red [.ok]).ibuf) ∧ cmpV1.length < 2 ^ 32 := by
  refine ⟨rfl, by decide, by decide, by decide, rfl, by decide +kernel, by decide⟩

theorem witness_EncodePreconditionFaults :
    State.reset.fault = false ∧ (State.reset.width = 0 ∨ State.reset.height = 0) ∧
      ({ State.reset with height := 1 } : State).width = 0 ∧ ({ State.reset with width := 7 } : State).height = 0 ∧
      ({ red [] with ibuf := [] } : State).width ≠ 0 ∧ ({ red [] with ibuf := [] } : State).height ≠ 0 ∧
      ({ red [] with ibuf := [] } : State).ibuf.length ≠ 4 * (red []).width.toNat * (red []).height.toNat := by decide

theorem witness_EncodeHandsTheUnitsErrorOn :
    (red [.err 0xDEADBEEF]).fault = false ∧ (red [.err 0xDEADBEEF]).width ≠ 0 ∧ (red [.err 0xDEADBEEF]).height ≠ 0 ∧
      (red [.err 0xDEADBEEF]).ibuf.length = 4 * (red [.err 0xDEADBEEF]).width.toNat * (red [.err 0xDEADBEEF]).height.toNat ∧
      (red [.err 0xDEADBEEF]).nextDraw = .err 0xDEADBEEF := by
  refine ⟨rfl, by decide, by decide, by decide, rfl⟩

theorem witness_OneRequestPerEncode :
    (red [.ok]).fault = false ∧ (red [.ok]).width ≠ 0 ∧ (red [.ok]).height ≠ 0 ∧
      (red [.ok]).ibuf.length = pixelBytes (red [.ok]).width (red [.ok]).height ∧
      (∃ t, hostAct (.regWrite .word 0x00 0x30000000) State.reset = .next t) ∧ State.reset.width = 0 ∧
      hostAct .nothing (red [.ok]) = .next (red [.ok]) ∧ HostAction.nothing ≠ .regWrite .word 0x00 0x30000000 := by
  refine ⟨rfl, by decide, by decide, by decide, exec_some .encode _, rfl, rfl, by decide⟩

theorem witness_PhasesFollowOneLine : (startEncode (red [.ok]) [] []).st.fault = false := rfl

theorem witness_PhasesRefineTheOneStep : (red [.ok]).fault = false ∧ (red [.ok]).phase = .idle ∧ 9 ≤ 9 := ⟨rfl, rfl, Nat.le_refl _⟩

theorem witness_EncodeIsAllOrNothing :
    (startEncode (red []) [] []).st.phase ∈ [Phase.chkDim, .chkLen, .scan, .defl, .chkPay] ∧ (startEncode (red []) [] []).pkt = [] ∧
      (Seq.go (startEncode (red []) [] []) .iend).st.phase ∈ [Phase.sig, .ihdr, .idat, .iend] ∧
      (red [.ok]).fault = false ∧ ∃ t, exec .encode (red [.ok]) = .next t := by
  refine ⟨by decide, rfl, by decide, rfl, exec_some .encode _⟩

theorem witness_EncodePacketsAreValidFiles :
    (red [.ok]).fault = false ∧ (∃ t, exec .encode (red [.ok]) = .next t) ∧ cmpV1.length < 2 ^ 32 :=
  ⟨rfl, exec_some .encode _, by decide⟩

theorem witness_PngLayoutByOffset : cmpV1.length < 2 ^ 32 ∧ png 1 1 cmpV1 = png 1 1 cmpV1 := ⟨by decide, rfl⟩

theorem witness_PixelsSurviveTheRoundTrip : (red [.ok]).fault = false ∧ ∃ t, exec .encode (red [.ok]) = .next t :=
  ⟨rfl, exec_some .encode _⟩

theorem witness_EncodeIsDeterministic :
    (red [.ok]).fault = false ∧ (State.setTag (red [.ok]) 7).fault = false ∧ (State.setTag (red [.ok]) 7).width = (red [.ok]).width ∧
      (State.setTag (red [.ok]) 7).height = (red [.ok]).height ∧ (State.setTag (red [.ok]) 7).ibuf = (red [.ok]).ibuf ∧
      (red [.ok]).nextDraw = .ok ∧ (State.setTag (red [.ok]) 7).nextDraw = .ok ∧ (∃ t, exec .encode (red [.ok]) = .next t) ∧
      ∃ t, exec .encode (State.setTag (red [.ok]) 7) = .next t :=
  ⟨rfl, rfl, rfl, rfl, rfl, rfl, rfl, exec_some .encode _, exec_some .encode _⟩

theorem witness_EmittingCommandsIgnoreEachOthersArguments :
    (∃ t, exec .encode (red [.ok]) = .next t) ∧ (∃ t, exec .chunk full = .next t) ∧ full.fault = false ∧
      full.ibuf.length ≤ Config.ibufCap :=
  ⟨exec_some .encode _, exec_some .chunk _, rfl, Nat.le_of_eq full_length⟩

theorem witness_ExpectIsReadWhole : 0x0C ∈ [0x0C, 0x10, 0x14] ∧ 0x14 ∈ [0x0C, 0x10, 0x14] := by decide

theorem witness_FaultStateIsAbsorbing :
    faulted.fault = true ∧ 0x00 % 4 = 0 ∧ 0x00 ≤ 0xFC ∧ ¬ (0x00 = 0x00 ∧ (0x30000000 : Word) = 0x01000000) ∧
      ¬ (0xFC = 0x00 ∧ (0x01000000 : Word) = 0x01000000) ∧ step faulted = .next faulted ∧
      step (State.setTodo faulted [.hardReset]) = .next State.reset := by
  refine ⟨rfl, by decide, by decide, by decide, by decide, rfl, rfl⟩

theorem witness_OnlyResetLeavesTheFaultState :
    faulted.fault = true ∧ hostAct .hardReset faulted = .next State.reset ∧ State.reset.fault = false := ⟨rfl, rfl, rfl⟩

theorem witness_EachActionRaisesOnlyItsCauses :
    State.reset.fault = false ∧ State.reset.ibuf.length ≤ Config.ibufCap ∧
      (∃ t, hostAct (.regWrite .word 0x00 0x30000000) State.reset = .next t ∧ t.fault = true) ∧
      (∃ t, hostAct (.regWrite .word 0x00 0x03000000) State.reset = .next t ∧ t.fault = true) ∧
      full.fault = false ∧ full.ibuf.length ≤ Config.ibufCap ∧ ∃ t, hostAct (.regWrite .word 0x34 0xAA) full = .next t ∧ t.fault = true := by
  refine ⟨rfl, Nat.zero_le _, ⟨_, rfl, rfl⟩, ⟨_, rfl, rfl⟩, rfl, Nat.le_of_eq full_length, ⟨_, rfl, ?_⟩⟩
  rcases pushByte_cases Config.ibufCap full (pushedByte 0xAA) with ⟨_, e⟩ | ⟨h, _⟩
  · rw [unlessFaulted_of_clear rfl, e]; rfl
  · exact absurd full_length h

theorem witness_FaultsArePrecise :
    State.reset.fault = false ∧ ∃ t, hostAct (.regWrite .word 0x00 0x30000000) State.reset = .next t ∧ t.fault = true :=
  ⟨rfl, _, rfl, rfl⟩

theorem witness_CommandsLeaveTheRestAlone :
    Instr.encode ≠ .reset ∧ (∃ t, exec .encode (red [.ok]) = .next t) ∧ Instr.nop ≠ .inClr ∧ (∀ b, Instr.nop ≠ .crcByte b) ∧
      Instr.nop ∉ [Instr.crcInit, .crc32, .chunk, .encode] ∧ Instr.nop ∉ [Instr.crcFin, .crc32, .chunk, .encode] ∧
      Instr.nop ∉ [Instr.chunk, .encode] ∧ Instr.nop ≠ .encode := by
  refine ⟨by decide, exec_some .encode _, by decide, by decide, by decide, by decide, by decide, by decide⟩

theorem witness_OnlyCommandsDisturbTheEngine :
    (∃ t, hostAct (.regWrite .word 0x24 9) State.reset = .next t) ∧ HostAction.regWrite .word 0x24 9 ≠ .hardReset ∧
      (∀ v, HostAction.regWrite .word 0x24 9 ≠ .regWrite .word 0x00 v) ∧ State.reset.fault = false ∧
      (∃ t, hostAct (.regWrite .word 0x00 0x30000000) State.reset = .next t ∧ t.fault = true) ∧
      ∃ t, exec .inClr State.reset = .next t := by
  refine ⟨⟨_, rfl⟩, by decide, ?_, rfl, ⟨_, rfl, rfl⟩, exec_some .inClr _⟩
  intro v h; cases h

theorem witness_BufferChangesOnlyByPushClearReset :
    (∃ t, hostAct (.regWrite .word 0x00 0x02000000) (red []) = .next t ∧ t.ibuf ≠ (red []).ibuf) ∧
      (∃ t, hostAct .hardReset (red []) = .next t ∧ t.ibuf ≠ (red []).ibuf) ∧
      ∃ t, hostAct (.regWrite .word 0x34 0xAA) State.reset = .next t ∧ t.ibuf ≠ State.reset.ibuf := by
  refine ⟨⟨_, rfl, by decide⟩, ⟨_, rfl, by decide⟩, ⟨_, rfl, ?_⟩⟩
  rcases pushByte_cases Config.ibufCap State.reset (pushedByte 0xAA) with ⟨h, _⟩ | ⟨_, e⟩
  · exact absurd h.symm (Nat.ne_of_gt cap_pos)
  · rw [unlessFaulted_of_clear rfl, e]; decide

theorem witness_OneStepAppendsAtMostOnePacket :
    ∃ t, step (State.withFetchWord State.reset 32 0x20000000) = .next t ∧ t.out ≠ State.reset.out :=
  ⟨_, rfl, by decide +kernel⟩

theorem witness_BeatsMarkTheLastByteOnly : 0 < ([0x01] : List Byte).length ∧ 2 < ([0x01, 0x02, 0x03] : List Byte).length := by decide

theorem reset_inv : State.reset.Inv := ⟨Memory.wf_reset, rfl, by decide, rfl, rfl⟩

theorem witness_EveryStepKeepsTheInvariant :
    State.reset.Inv ∧ step State.reset = .next State.reset ∧ State.Inv { State.reset with todo := [.regWrite .word 0x00 0x30000000] } ∧
      ∃ t, step { State.reset with todo := [.regWrite .word 0x00 0x30000000] } = .next t ∧ t.fault = true :=
  ⟨reset_inv, rfl, ⟨Memory.wf_reset, rfl, by decide, rfl, rfl⟩, _, rfl, rfl⟩

theorem witness_EveryStepKeepsPacketsWhole :
    State.reset.outWhole ∧ ∃ t, step (State.withFetchWord State.reset 32 0x20000000) = .next t :=
  ⟨fun _ h => absurd h (List.not_mem_nil), _, rfl⟩

theorem witness_SetupThenChunkGivesTheChunk :
    State.reset.fault = false ∧ ([0x01] : List Byte).length ≤ Config.ibufCap ∧
      (List.replicate Config.ibufCap (0x01 : Byte)).length ≤ Config.ibufCap :=
  ⟨rfl, cap_pos, Nat.le_of_eq (List.length_replicate ..)⟩

theorem witness_SetupThenEncodeGivesTheFile :
    (1 : Word) ≠ 0 ∧ ([0xFF, 0x00, 0x00, 0xFF] : List Byte).length = pixelBytes 1 1 ∧ (0xFFFFFFFF : Word) ≠ 0 ∧
      (List.replicate (pixelBytes 0xFFFFFFFF 0xFFFFFFFF) (0x00 : Byte)).length = pixelBytes 0xFFFFFFFF 0xFFFFFFFF := by
  rw [List.length_replicate]; exact ⟨by decide, by decide, by decide, rfl⟩

end Sys2Proof.Tests
end

section
/-! PROOFS. What a decoded word says of its fields (rules R70 to R75). -/

namespace Sys2Proof

/-- The three fields of a word (R70) are those of the word of `i`. -/
def FieldsOf (v : Word) (i : Instr) : Prop :=
  opcodeField v = i.opcode ∧ zeroField v = 0 ∧ imm8Field v = i.operand

/-- A word is its three fields, put together again (R70). -/
theorem word_eq_fields (v : Word) : v = opcodeField v ++ zeroField v ++ imm8Field v := by
  have hhigh : v.extractLsb' 8 24 = opcodeField v ++ zeroField v :=
    (BitVec.extractLsb'_append_extractLsb'_eq_extractLsb' (start₂ := 24) (start₁ := 8) (len₂ := 8) (len₁ := 16) rfl).symm
  have hall : v.extractLsb' 0 32 = v.extractLsb' 8 24 ++ imm8Field v :=
    (BitVec.extractLsb'_append_extractLsb'_eq_extractLsb' (start₂ := 8) (start₁ := 0) (len₂ := 24) (len₁ := 8) rfl).symm
  rw [← hhigh, ← hall, BitVec.extractLsb'_eq_self]

/-- A word with the fields of a command is that command's word (R70 to R72). -/
theorem FieldsOf.eq_encode {v : Word} {i : Instr} (h : FieldsOf v i) : v = encode i := by
  obtain ⟨hop, hzero, himm⟩ := h
  rw [word_eq_fields v, hop, hzero, himm, encode]

/-- Format `N` accepts a word of the right opcode with no other bit set (R71). -/
theorem fieldsOf_of_decodeN {v : Word} {i j : Instr} (hop : opcodeField v = j.opcode) (hj : j.operand = 0)
    (h : decodeN j v = .ok i) : FieldsOf v i := by
  unfold decodeN at h
  split at h
  · next hz =>
    cases h
    exact ⟨hop, hz.1, hz.2.trans hj.symm⟩
  · cases h

/-- Format `B` accepts a word of the right opcode with any operand (R71, R73). -/
theorem fieldsOf_of_decodeB {v : Word} {i : Instr} (hop : opcodeField v = 0x11) (h : decodeB v = .ok i) : FieldsOf v i := by
  unfold decodeB at h
  split at h
  · next hz =>
    cases h
    exact ⟨hop, hz, rfl⟩
  · cases h

/-- A word that decodes has the fields of the command it decodes to (R72, R74). -/
theorem fieldsOf_of_decode {v : Word} {i : Instr} (h : decode v = .ok i) : FieldsOf v i := by
  unfold decode at h
  split at h
  · next hop => exact fieldsOf_of_decodeN (j := .nop) hop rfl h
  split at h
  · next hop => exact fieldsOf_of_decodeN (j := .reset) hop rfl h
  split at h
  · next hop => exact fieldsOf_of_decodeN (j := .inClr) hop rfl h
  split at h
  · next hop => exact fieldsOf_of_decodeN (j := .crcInit) hop rfl h
  split at h
  · next hop => exact fieldsOf_of_decodeB hop h
  split at h
  · next hop => exact fieldsOf_of_decodeN (j := .crcFin) hop rfl h
  split at h
  · next hop => exact fieldsOf_of_decodeN (j := .crc32) hop rfl h
  split at h
  · next hop => exact fieldsOf_of_decodeN (j := .chunk) hop rfl h
  split at h
  · next hop => exact fieldsOf_of_decodeN (j := .encode) hop rfl h
  · cases h

/-- A word that decodes is the word of the command it decodes to (R74, R75). -/
theorem eq_encode_of_decode {v : Word} {i : Instr} (h : decode v = .ok i) : v = encode i :=
  (fieldsOf_of_decode h).eq_encode

end Sys2Proof
end

section
/-! PROOFS. What the composed state updates leave of `STATUS.FAULT` and of the output stream. -/

namespace Sys2Proof.Machine

@[simp] theorem State.checksum_fault (s : State) (m : List Byte) : (s.checksum m).fault = s.fault := rfl
@[simp] theorem State.checksum_out (s : State) (m : List Byte) : (s.checksum m).out = s.out := rfl
@[simp] theorem State.raiseSize_out (s : State) (c : Cause) : (s.raiseSize c).out = s.out := rfl
@[simp] theorem State.raisePayloadOverflow_out (s : State) : s.raisePayloadOverflow.out = s.out := rfl
@[simp] theorem State.deliverPng_fault (s : State) (c : List Byte) : (s.deliverPng c).fault = s.fault := rfl
@[simp] theorem State.deliverPng_out (s : State) (c : List Byte) :
    (s.deliverPng c).out = s.out ++ [png s.width s.height c] := rfl

/-- An action whose effect keeps the output stream keeps it on every block (R184). -/
theorem unlessFaulted_out {s t : State} (h : t.out = s.out) : (unlessFaulted s t).out = s.out := by
  obtain ⟨_, e⟩ | ⟨_, e⟩ := unlessFaulted_cases s t <;> rw [e]
  exact h

/-- A push keeps the output stream (R165, R181). -/
theorem pushByte_out (cap : Nat) (s : State) (b : Byte) : (pushByte cap s b).out = s.out := by
  obtain ⟨_, e⟩ | ⟨_, e⟩ := pushByte_cases cap s b <;> rw [e]
  · exact State.raise_out ..
  · exact State.setIbuf_out ..

end Sys2Proof.Machine
end

section
/-! PROOFS. The big-endian form and the lengths of a chunk and of a file (rules R8, R111, R141, R143). -/

namespace Sys2Proof.Machine

/-- A byte of a word is a quotient of its value. -/
theorem extractByte_eq_ofNat_div (v : Word) (k : Nat) : v.extractLsb' k 8 = BitVec.ofNat 8 (v.toNat / 2 ^ k) := by
  rw [BitVec.extractLsb', Nat.shiftRight_eq_div_pow]

/-- `be32` by division (R8). -/
theorem be32_eq_div (v : Word) :
    be32 v = [BitVec.ofNat 8 (v.toNat / 2 ^ 24), BitVec.ofNat 8 (v.toNat / 2 ^ 16), BitVec.ofNat 8 (v.toNat / 2 ^ 8),
      BitVec.ofNat 8 v.toNat] := by
  simp only [be32, extractByte_eq_ofNat_div, Nat.pow_zero, Nat.div_one]

/-- Reading `be32` back gives the word (R8, R53). -/
theorem readBe_be32 (v : Word) : readBe (be32 v) = v.toNat := by
  have hlt : v.toNat < 2 ^ 32 := v.isLt
  simp only [be32_eq_div, readBe, List.foldl_cons, List.foldl_nil, BitVec.toNat_ofNat]
  omega

/-- Settles O26: each byte is a quotient modulo 256, and the four weighted by powers of 256 add up to the word. -/
theorem be32IsBigEndian : Obligations.Be32IsBigEndian := by
  unfold Obligations.Be32IsBigEndian
  exact fun v => ⟨be32_length v, readBe_be32 v, be32_eq_div v⟩

/-- The file is its signature, a header chunk of 25 bytes, the stream's chunk and an empty chunk (R143). -/
theorem png_length (w h : Word) (c : List Byte) : (png w h c).length = 57 + c.length := by
  have hsig : pngSig.length = 8 := rfl
  have hihdr : (frame tagIHDR (ihdr w h)).length = 25 := frame_length rfl _
  have hidat : (frame tagIDAT c).length = 12 + c.length := frame_length rfl _
  have hiend : (frame tagIEND []).length = 12 := frame_length rfl _
  simp only [png, List.length_append, hsig, hihdr, hidat, hiend]
  omega

theorem frame_ne_nil {t : List Byte} (h : t.length = 4) (p : List Byte) : frame t p ≠ [] := by
  have hl := frame_length h p
  intro e
  rw [e, List.length_nil] at hl
  omega

theorem png_ne_nil (w h : Word) (c : List Byte) : png w h c ≠ [] := by
  have hl := png_length w h c
  intro e
  rw [e, List.length_nil] at hl
  omega

end Sys2Proof.Machine
end

section
/-! PROOFS. `ENCODE` on an image of the right size, the unit answering `ok` (rules R144, R150). -/

namespace Sys2Proof.Machine

/-- `exec` of `ENCODE` on a clear block is the operation with the block's own codec (R144). -/
theorem exec_encode_of_clear {s : State} (h : s.fault = false) :
    exec .encode s = .next (encodeImage Config.codec s) :=
  exec_of_clear h (by decide)

/-- `ENCODE` passes its four tests: the file is delivered (R144, R150). -/
theorem encodeImage_of_short (D : Codec) {s : State} (hw : s.width ≠ 0) (hh : s.height ≠ 0)
    (hl : s.ibuf.length = pixelBytes s.width s.height) (hd : s.nextDraw = .ok)
    (hc : (D.deflate (rawImage s)).length < 2 ^ 32) :
    encodeImage D s = (s.useDraw (rawImage s)).deliverPng (D.deflate (rawImage s)) :=
  (encodeImage_of_ok D hw hh hl hd).trans (if_neg (Nat.not_le.2 hc))

/-- `ENCODE` fails its last test: the stream is too long for its length field (R111, R150). -/
theorem encodeImage_of_long (D : Codec) {s : State} (hw : s.width ≠ 0) (hh : s.height ≠ 0)
    (hl : s.ibuf.length = pixelBytes s.width s.height) (hd : s.nextDraw = .ok)
    (hc : ¬ (D.deflate (rawImage s)).length < 2 ^ 32) :
    encodeImage D s = (s.useDraw (rawImage s)).raisePayloadOverflow :=
  (encodeImage_of_ok D hw hh hl hd).trans (if_pos (Nat.not_lt.1 hc))

/-- Settles O33: the state that `deliverPng` or `raisePayloadOverflow` leaves after one request is the one the statement writes
out. -/
theorem encodeEmitsTheFile : Obligations.EncodeEmitsTheFile := by
  unfold Obligations.EncodeEmitsTheFile
  refine ⟨rfl, ?_, fun s hf => exec_encode_of_clear hf, ?_⟩
  · rintro D s c hw hh hl hd rfl hc
    exact ⟨encodeImage_of_short D hw hh hl hd hc, png_length ..⟩
  · rintro s c hf hw hh hl hd rfl
    rw [exec_encode_of_clear hf]
    split
    · next hc => exact congrArg _ (encodeImage_of_short _ hw hh hl hd hc)
    · next hc => exact congrArg _ (encodeImage_of_long _ hw hh hl hd hc)

end Sys2Proof.Machine
end

section
/-! PROOFS. What one host action can add to the output stream (rules R10, R38). -/

namespace Sys2Proof.Machine

/-- The output stream of `t` is that of `s` and one non-empty packet, and `t` is not faulted. -/
def AppendsPacket (s t : State) : Prop :=
  ∃ p : List Byte, p ≠ [] ∧ t.out = s.out ++ [p] ∧ t.fault = false

/-- On a clear block `CHUNK` faults and emits nothing, or emits one packet (R111, R114). -/
theorem chunkBuffer_emits {s : State} (hf : s.fault = false) :
    (chunkBuffer s).out = s.out ∨ AppendsPacket s (chunkBuffer s) := by
  obtain ⟨_, e⟩ | ⟨_, e⟩ := chunkBuffer_cases s <;> rw [e]
  · exact .inl (State.raisePayloadOverflow_out s)
  · exact .inr ⟨_, frame_ne_nil (t := tagBytes s) (be32_length s.tag) s.ibuf, by simp, by simp [hf]⟩

/-- On a clear block `ENCODE` faults and emits nothing, or emits one packet (R144, R156). -/
theorem encodeImage_emits (D : Codec) {s : State} (hf : s.fault = false) :
    (encodeImage D s).out = s.out ∨ AppendsPacket s (encodeImage D s) := by
  obtain ⟨_, e⟩ | ⟨_, _, ⟨_, e⟩ | ⟨_, ⟨_, _, e⟩ | ⟨_, _, e⟩ | ⟨_, _, e⟩⟩⟩ := encodeImage_cases D s <;> rw [e]
  · exact .inl (State.raiseSize_out ..)
  · exact .inl (State.raiseSize_out ..)
  · exact .inl (State.raise_out ..)
  · exact .inl (State.raisePayloadOverflow_out _)
  · exact .inr ⟨_, png_ne_nil _ _ _, State.deliverPng_out .., by simp [hf]⟩

/-- A command keeps the output stream, or it is `CHUNK` or `ENCODE` and appends one packet (R38). -/
theorem exec_emits {i : Instr} {s t : State} (h : exec i s = .next t) :
    t.out = s.out ∨ ((i = .chunk ∨ i = .encode) ∧ AppendsPacket s t) := by
  by_cases hr : i = .reset
  · subst hr
    cases h
    exact .inl (State.toReset_out s)
  cases hf : s.fault with
  | true =>
    rw [exec_of_fault hf hr] at h
    cases h
    exact .inl rfl
  | false =>
    rw [exec_of_clear hf hr] at h
    cases h
    cases i with
    | chunk => exact (chunkBuffer_emits hf).imp_right fun ha => ⟨.inl rfl, ha⟩
    | encode => exact (encodeImage_emits _ hf).imp_right fun ha => ⟨.inr rfl, ha⟩
    | nop | reset | inClr | crcInit | crcByte _ | crcFin | crc32 => exact .inl rfl

/-- A word written to `CMD` keeps the output stream, or it is `CHUNK`'s or `ENCODE`'s and appends one packet (R38, R166). -/
theorem writeCmd_emits {v : Word} {s t : State} (h : writeCmd v s = .next t) :
    t.out = s.out ∨ ((v = 0x20000000 ∨ v = 0x30000000) ∧ AppendsPacket s t) := by
  obtain ⟨i, hi, e⟩ | ⟨_, _, e⟩ := writeCmd_cases v s <;> rw [e] at h
  · have hv : v = encode i := eq_encode_of_decode hi
    obtain ho | ⟨rfl | rfl, ha⟩ := exec_emits h
    · exact .inl ho
    · exact .inr ⟨.inl hv, ha⟩
    · exact .inr ⟨.inr hv, ha⟩
  · cases h
    exact .inl (unlessFaulted_out (State.raise_out ..))

/-- A write keeps the output stream, or it writes `CHUNK`'s or `ENCODE`'s word to `CMD` and appends one packet (R38). -/
theorem writeAt_emits {off : Nat} {v : Word} {s t : State} (h : writeAt off v s = .next t) :
    t.out = s.out ∨ (off = 0x00 ∧ (v = 0x20000000 ∨ v = 0x30000000) ∧ AppendsPacket s t) := by
  obtain ⟨ho, e⟩ | ⟨_, e⟩ | ⟨_, e⟩ | ⟨_, e⟩ | ⟨_, e⟩ | e := writeAt_cases off v s <;> rw [e] at h
  · exact (writeCmd_emits h).imp_right fun ha => ⟨ho, ha⟩
  all_goals cases h
  · exact .inl (unlessFaulted_out (State.setWidth_out ..))
  · exact .inl (unlessFaulted_out (State.setHeight_out ..))
  · exact .inl (unlessFaulted_out (State.setTag_out ..))
  · exact .inl (unlessFaulted_out (pushByte_out ..))
  · exact .inl rfl

/-- A host action keeps the output stream, or it writes `CHUNK`'s or `ENCODE`'s word to `CMD` and appends one packet (R38). -/
theorem hostAct_emits {a : HostAction} {s t : State} (h : hostAct a s = .next t) :
    t.out = s.out ∨
      ((a = .regWrite .word 0x00 0x20000000 ∨ a = .regWrite .word 0x00 0x30000000) ∧ AppendsPacket s t) := by
  obtain ⟨off, v, rfl, _, _, hw⟩ | ⟨_, _, _, _, rfl⟩ | ⟨_, rfl⟩ | ⟨_, rfl⟩ := hostAct_cases h
  · obtain ho | ⟨rfl, rfl | rfl, ha⟩ := writeAt_emits hw
    · exact .inl ho
    · exact .inr ⟨.inl rfl, ha⟩
    · exact .inr ⟨.inr rfl, ha⟩
  · exact .inl (State.addRead_out ..)
  · exact .inl (State.toReset_out s)
  · exact .inl rfl

/-- Settles O53: a step is one host action, and of these only the two emitting commands touch the output stream. -/
theorem oneStepAppendsAtMostOnePacket : Obligations.OneStepAppendsAtMostOnePacket := by
  unfold Obligations.OneStepAppendsAtMostOnePacket
  intro s t h
  obtain ⟨_, rfl⟩ | ⟨a, rest, htodo, ha⟩ := step_cases h
  · exact .inl rfl
  obtain ho | ⟨hcmd, p, hp, hout, hf⟩ := hostAct_emits ha
  · exact .inl ho
  · refine .inr ⟨p, hp, hout, hf, rest, hcmd.imp ?_ ?_⟩ <;>
      rintro rfl <;> exact htodo

end Sys2Proof.Machine
end

section
/-! PROOFS. No host action looks at the list of actions to come, so a run may be played with any list behind it (rules R10, R61, R62). -/

namespace Sys2Proof.Machine

/-- A gated action whose effect carries a new list of actions along carries it along itself (R184). -/
theorem next_unlessFaulted_setTodo {s t u : State} {l : List HostAction} (h : u = t.setTodo l) :
    (.next (unlessFaulted (s.setTodo l) u) : Host.Outcome State Fault Refusal) =
      .next ((unlessFaulted s t).setTodo l) := by
  obtain ⟨hf, e⟩ | ⟨hf, e⟩ := unlessFaulted_cases s t <;> rw [e]
  · exact congrArg _ (unlessFaulted_of_fault (s := s.setTodo l) hf u)
  · exact congrArg _ ((unlessFaulted_of_clear (s := s.setTodo l) hf u).trans h)

theorem pushByte_setTodo (cap : Nat) (s : State) (b : Byte) (l : List HostAction) :
    pushByte cap (s.setTodo l) b = (pushByte cap s b).setTodo l := by
  obtain ⟨hl, e⟩ | ⟨hl, e⟩ := pushByte_cases cap s b <;> rw [e]
  · exact if_pos hl
  · exact if_neg hl

theorem chunkBuffer_setTodo (s : State) (l : List HostAction) :
    chunkBuffer (s.setTodo l) = (chunkBuffer s).setTodo l := by
  obtain ⟨hl, e⟩ | ⟨hl, e⟩ := chunkBuffer_cases s <;>
    obtain ⟨hl', e'⟩ | ⟨hl', e'⟩ := chunkBuffer_cases (s.setTodo l)
  · rw [e, e']
    rfl
  · exact absurd hl (Nat.not_le.2 hl')
  · exact absurd hl' (Nat.not_le.2 hl)
  · rw [e, e']
    rfl

theorem encodeImage_setTodo (D : Codec) (s : State) (l : List HostAction) :
    encodeImage D (s.setTodo l) = (encodeImage D s).setTodo l := by
  obtain ⟨hz, e⟩ | ⟨hw, hh, ⟨hl, e⟩ | ⟨hl, ⟨err, hd, e⟩ | ⟨hd, hc, e⟩ | ⟨hd, hc, e⟩⟩⟩ := encodeImage_cases D s <;> rw [e]
  · exact encodeImage_of_zero D hz
  · exact encodeImage_of_mismatch D hw hh hl
  · exact encodeImage_of_err D hw hh hl hd
  · exact encodeImage_of_long D hw hh hl hd (Nat.not_lt.2 hc)
  · exact encodeImage_of_short D hw hh hl hd hc

/-- No command looks at the list of actions to come. -/
theorem exec_setTodo {i : Instr} {s t : State} (h : exec i s = .next t) (l : List HostAction) :
    exec i (s.setTodo l) = .next (t.setTodo l) := by
  cases i <;> cases h
  case reset => rfl
  case chunk => exact next_unlessFaulted_setTodo (chunkBuffer_setTodo s l)
  case encode => exact next_unlessFaulted_setTodo (encodeImage_setTodo _ s l)
  all_goals exact next_unlessFaulted_setTodo rfl

theorem writeCmd_setTodo {v : Word} {s t : State} (h : writeCmd v s = .next t) (l : List HostAction) :
    writeCmd v (s.setTodo l) = .next (t.setTodo l) := by
  unfold writeCmd at h ⊢
  cases hd : decode v with
  | ok i =>
    rw [hd] at h
    exact exec_setTodo h l
  | error _ =>
    rw [hd] at h
    cases h
    exact next_unlessFaulted_setTodo rfl

theorem writeAt_setTodo {off : Nat} {v : Word} {s t : State} (h : writeAt off v s = .next t) (l : List HostAction) :
    writeAt off v (s.setTodo l) = .next (t.setTodo l) := by
  unfold writeAt at h ⊢
  cases hr : regAt off with
  | none =>
    rw [hr] at h
    cases h
    rfl
  | some r =>
    rw [hr] at h
    cases r with
    | cmd => exact writeCmd_setTodo h l
    | width | height | tag =>
      cases h
      exact next_unlessFaulted_setTodo rfl
    | idata =>
      cases h
      exact next_unlessFaulted_setTodo (pushByte_setTodo ..)
    | status | cause | expect0 | expect1 | expect2 | actual | crc | result | ilen | cap =>
      cases h
      rfl

/-- No read looks at the list of actions to come. -/
theorem readAt_setTodo (s : State) (off : Nat) (l : List HostAction) : readAt (s.setTodo l) off = readAt s off := by
  unfold readAt
  cases regAt off with
  | none => rfl
  | some r => cases r <;> rfl

/-- An action that completes does so with any other list of actions to come, and keeps that list. -/
theorem hostAct_setTodo {a : HostAction} {s t : State} (h : hostAct a s = .next t) (l : List HostAction) :
    hostAct a (s.setTodo l) = .next (t.setTodo l) := by
  obtain ⟨off, v, rfl, ha, hle, hw⟩ | ⟨off, rfl, ha, hle, rfl⟩ | ⟨rfl, rfl⟩ | ⟨rfl, rfl⟩ := hostAct_cases h
  · rw [hostAct_regWrite ha hle]
    exact writeAt_setTodo hw l
  · rw [hostAct_regRead ha hle, readAt_setTodo]
    rfl
  · rfl
  · rfl

/-- Every write inside the register space completes (R62, R213). -/
theorem writeAt_completes (off : Nat) (v : Word) (s : State) : ∃ t, writeAt off v s = .next t := by
  obtain ⟨_, e⟩ | ⟨_, e⟩ | ⟨_, e⟩ | ⟨_, e⟩ | ⟨_, e⟩ | e := writeAt_cases off v s
  · obtain ⟨i, _, e'⟩ | ⟨_, _, e'⟩ := writeCmd_cases v s
    · rw [e, e']
      exact exec_completes i s
    · exact ⟨_, e.trans e'⟩
  all_goals exact ⟨_, e⟩

/-- An action refused in one state is refused in every state (R59, R169). -/
theorem hostAct_refused_everywhere {a : HostAction} {s : State} {r : Refusal} (h : hostAct a s = .refused r) (u : State) :
    hostAct a u = .refused r := by
  cases a with
  | regWrite size off v =>
    simp only [hostAct] at h
    split at h
    · obtain ⟨t, ht⟩ := writeAt_completes off v s
      rw [ht] at h
      cases h
    · next hl =>
      cases h
      exact if_neg hl
  | regRead size off =>
    simp only [hostAct] at h
    split at h
    · cases h
    · next hl =>
      cases h
      exact if_neg hl
  | hardReset => cases h
  | nothing => cases h

/-- An action does not touch the list of actions to come. -/
theorem hostAct_todo {a : HostAction} {s t : State} (h : hostAct a s = .next t) : t.todo = s.todo := by
  have e : t = t.setTodo s.todo := Host.Outcome.next.inj (h.symm.trans (hostAct_setTodo h s.todo))
  rw [e, State.setTodo_todo]

/-- A run does not touch the list of actions to come. -/
theorem runActions_todo {as : List HostAction} {s t : State} (h : runActions as s = .next t) : t.todo = s.todo := by
  induction as generalizing s with
  | nil =>
    cases h
    rfl
  | cons a as ih =>
    unfold runActions at h
    split at h
    · next u hu => exact (ih h).trans (hostAct_todo hu)
    · cases h
    · cases h

/-- A step takes the oldest action off the list and does it (R10, R61, R62). -/
theorem step_cons (a : HostAction) (rest : List HostAction) (s : State) :
    step (s.setTodo (a :: rest)) = hostAct a (s.setTodo rest) := rfl

/-- A run that completes is played by as many steps, the list behind it left over. -/
theorem core_run_of_next {as : List HostAction} {s t : State} (h : runActions as s = .next t) (rest : List HostAction) :
    Sys2Proof.core.run as.length (s.setTodo (as ++ rest)) = .next (t.setTodo rest) := by
  induction as generalizing s with
  | nil =>
    cases h
    rfl
  | cons a as ih =>
    unfold runActions at h
    split at h
    · next u hu =>
      rw [List.length_cons, List.cons_append, core_run_succ, step_cons, hostAct_setTodo hu]
      exact ih h
    · cases h
    · cases h

/-- A run that is refused is refused by the steps that play it (R215). -/
theorem core_run_of_refused {as : List HostAction} {s : State} {r : Refusal} (h : runActions as s = .refused r)
    (rest : List HostAction) : Sys2Proof.core.run as.length (s.setTodo (as ++ rest)) = .refused r := by
  induction as generalizing s with
  | nil => cases h
  | cons a as ih =>
    rw [List.length_cons, List.cons_append, core_run_succ, step_cons]
    unfold runActions at h
    split at h
    · next u hu =>
      rw [hostAct_setTodo hu]
      exact ih h
    · cases h
    · next hr =>
      cases h
      rw [hostAct_refused_everywhere hr]

/-- Settles O5: by induction on the list, each step doing the action that the run does, since no action looks at the list or
touches it. -/
theorem stepsPlayTheActionList : Obligations.StepsPlayTheActionList := by
  unfold Obligations.StepsPlayTheActionList
  refine ⟨?_, fun _ => rfl, ?_, fun as rest s => ⟨?_, fun r h => core_run_of_refused h rest⟩⟩
  · intro s h
    rw [step, stepHost, h]
  · intro s a rest h
    rw [step, stepHost, h]
    rfl
  · intro t h hs
    have htodo : t.setTodo rest = t := by
      rw [← hs, ← runActions_todo h]
      rfl
    exact (core_run_of_next h rest).trans (congrArg _ htodo)

end Sys2Proof.Machine
end

section
/-! PROOFS. Everything one host action can do to the block, as one relation: the invariants and frames below are case analyses over it
(rules R10, R163 to R168, R184, R200). -/

namespace Sys2Proof.Machine

/-- What a command does to a block that is not faulted (R97 to R100, R114, R144, R160 to R162). -/
def commandEffect (i : Instr) (s : State) : State :=
  match i with
  | .nop => s
  | .reset => s.toReset
  | .inClr => s.setIbuf []
  | .crcInit => s.setCrc crcStart
  | .crcByte b => s.setCrc (crcByte s.crc b)
  | .crcFin => s.setResult (~~~ s.crc)
  | .crc32 => s.checksum s.ibuf
  | .chunk => chunkBuffer s
  | .encode => encodeImage Config.codec s

/-- Every command but `RESET` is its effect behind the gate of the fault state (R184). -/
theorem exec_eq_unlessFaulted {i : Instr} (hi : i ≠ .reset) (s : State) :
    exec i s = .next (unlessFaulted s (commandEffect i s)) := by
  cases i with
  | reset => exact absurd rfl hi
  | nop | inClr | crcInit | crcByte _ | crcFin | crc32 | chunk | encode => rfl

/-- A property of the block that holds before a gated action, and after its effect on a clear block, holds after the action (R184). -/
theorem unlessFaulted_keeps {P : State → Prop} {s t : State} (hs : P s) (ht : s.fault = false → P t) :
    P (unlessFaulted s t) := by
  obtain ⟨_, e⟩ | ⟨hf, e⟩ := unlessFaulted_cases s t <;> rw [e]
  · exact hs
  · exact ht hf

/-- `HostEffect s a t`: the action `a` may take the block from `s` to `t`. -/
inductive HostEffect (s : State) : HostAction → State → Prop
  /-- The action is ignored, or has no effect (R160, R167, R184). -/
  | unchanged (a : HostAction) : HostEffect s a s
  /-- A read is recorded for the host (R164). -/
  | read (off : Nat) : HostEffect s (.regRead .word off) (s.addRead (readAt s off))
  /-- Reset, in every state, by the reset input or by the word of `RESET` (R161, R200). -/
  | reset {a : HostAction} (ha : a = .hardReset ∨ a = .regWrite .word 0x00 0x01000000) : HostEffect s a s.toReset
  /-- A clear block obeys a command (R166). -/
  | command {i : Instr} (hf : s.fault = false) (hi : i ≠ .reset) :
      HostEffect s (.regWrite .word 0x00 (encode i)) (commandEffect i s)
  /-- A clear block meets a word that encodes no command (R180). -/
  | illegal {v : Word} (hf : s.fault = false) (hv : (decode v).toOption = none) :
      HostEffect s (.regWrite .word 0x00 v) (s.raise .illegalCommand 0 v)
  /-- A clear block takes a word into `WIDTH` (R163). -/
  | width (v : Word) (hf : s.fault = false) : HostEffect s (.regWrite .word 0x24 v) (s.setWidth v)
  /-- A clear block takes a word into `HEIGHT` (R163). -/
  | height (v : Word) (hf : s.fault = false) : HostEffect s (.regWrite .word 0x28 v) (s.setHeight v)
  /-- A clear block takes a word into `TAG` (R163). -/
  | tag (v : Word) (hf : s.fault = false) : HostEffect s (.regWrite .word 0x2C v) (s.setTag v)
  /-- A clear block takes a byte, or overflows (R165). -/
  | push (v : Word) (hf : s.fault = false) :
      HostEffect s (.regWrite .word 0x34 v) (pushByte Config.ibufCap s (pushedByte v))

/-- A gated action is ignored, or has its effect on a clear block (R184). -/
theorem HostEffect.gated {a : HostAction} {s t : State} (h : s.fault = false → HostEffect s a t) :
    HostEffect s a (unlessFaulted s t) :=
  unlessFaulted_keeps (.unchanged a) h

theorem writeCmd_effect {v : Word} {s t : State} (h : writeCmd v s = .next t) :
    HostEffect s (.regWrite .word 0x00 v) t := by
  obtain ⟨i, hi, e⟩ | ⟨_, hd, e⟩ := writeCmd_cases v s <;> rw [e] at h
  · obtain rfl : v = encode i := eq_encode_of_decode hi
    by_cases hr : i = .reset
    · subst hr
      cases h
      exact .reset (.inr rfl)
    · rw [exec_eq_unlessFaulted hr] at h
      cases h
      exact .gated fun hf => .command hf hr
  · cases h
    exact .gated fun hf => .illegal hf (by rw [hd]; rfl)

theorem writeAt_effect {off : Nat} {v : Word} {s t : State} (h : writeAt off v s = .next t) :
    HostEffect s (.regWrite .word off v) t := by
  obtain ⟨rfl, e⟩ | ⟨rfl, e⟩ | ⟨rfl, e⟩ | ⟨rfl, e⟩ | ⟨rfl, e⟩ | e := writeAt_cases off v s <;> rw [e] at h
  · exact writeCmd_effect h
  all_goals cases h
  · exact .gated (.width v)
  · exact .gated (.height v)
  · exact .gated (.tag v)
  · exact .gated (.push v)
  · exact .unchanged _

/-- Every action that completes does what one of the cases of `HostEffect` says (R10). -/
theorem hostAct_effect {a : HostAction} {s t : State} (h : hostAct a s = .next t) : HostEffect s a t := by
  obtain ⟨off, v, rfl, _, _, hw⟩ | ⟨off, rfl, _, _, rfl⟩ | ⟨rfl, rfl⟩ | ⟨rfl, rfl⟩ := hostAct_cases h
  · exact writeAt_effect hw
  · exact .read off
  · exact .reset (.inl rfl)
  · exact .unchanged _

/-- A property that every action keeps, and that does not look at the list of actions to come, is kept by every step (R10, R192). -/
theorem step_keeps {P : State → Prop} (htodo : ∀ {s : State} (l : List HostAction), P s → P (s.setTodo l))
    (heffect : ∀ {s t : State} {a : HostAction}, P s → HostEffect s a t → P t) {s t : State} (hs : P s)
    (h : step s = .next t) : P t := by
  obtain ⟨_, rfl⟩ | ⟨_, rest, _, ha⟩ := step_cases h
  · exact hs
  · exact heffect (htodo rest hs) (hostAct_effect ha)

end Sys2Proof.Machine
end

section
/-! PROOFS. The frame of the commands: which pieces of the block each leaves alone (rules R22 to R39, R128). -/

namespace Sys2Proof.Machine

/-- The fault registers and the phase are the same in both states. -/
def SameFaultRegs (s t : State) : Prop :=
  t.fault = s.fault ∧ t.cause = s.cause ∧ t.expect = s.expect ∧ t.actual = s.actual ∧ t.phase = s.phase

/-- The argument registers, and the model's records of what the host has read and will do, are the same in both states. -/
def SameArguments (s t : State) : Prop :=
  t.width = s.width ∧ t.height = s.height ∧ t.tag = s.tag ∧ t.reads = s.reads ∧ t.todo = s.todo

theorem chunkBuffer_frame (s : State) : SameArguments s (chunkBuffer s) ∧ (chunkBuffer s).ibuf = s.ibuf := by
  obtain ⟨_, e⟩ | ⟨_, e⟩ := chunkBuffer_cases s <;> rw [e] <;> exact ⟨⟨rfl, rfl, rfl, rfl, rfl⟩, rfl⟩

theorem encodeImage_frame (D : Codec) (s : State) :
    SameArguments s (encodeImage D s) ∧ (encodeImage D s).ibuf = s.ibuf := by
  obtain ⟨_, e⟩ | ⟨_, _, ⟨_, e⟩ | ⟨_, ⟨_, _, e⟩ | ⟨_, _, e⟩ | ⟨_, _, e⟩⟩⟩ := encodeImage_cases D s <;> rw [e] <;>
    exact ⟨⟨rfl, rfl, rfl, rfl, rfl⟩, rfl⟩

/-- Every command but `RESET` leaves the argument registers alone (R24 to R26). -/
theorem commandEffect_sameArguments {i : Instr} (hr : i ≠ .reset) (s : State) : SameArguments s (commandEffect i s) := by
  cases i with
  | reset => exact absurd rfl hr
  | chunk => exact (chunkBuffer_frame s).1
  | encode => exact (encodeImage_frame _ s).1
  | nop | inClr | crcInit | crcByte _ | crcFin | crc32 => exact ⟨rfl, rfl, rfl, rfl, rfl⟩

/-- Every command but `RESET` and `IN.CLR` leaves the buffer alone (R39). -/
theorem commandEffect_ibuf {i : Instr} (hr : i ≠ .reset) (hc : i ≠ .inClr) (s : State) :
    (commandEffect i s).ibuf = s.ibuf := by
  cases i with
  | reset => exact absurd rfl hr
  | inClr => exact absurd rfl hc
  | chunk => exact (chunkBuffer_frame s).2
  | encode => exact (encodeImage_frame _ s).2
  | nop | crcInit | crcByte _ | crcFin | crc32 => rfl

/-- The commands that write `CRC` (R22, R97 to R100, R114, R144); all others but `RESET` leave it alone. -/
theorem commandEffect_crc {i : Instr} (hr : i ≠ .reset) (hb : ∀ b, i ≠ .crcByte b)
    (hi : i ∉ [Instr.crcInit, .crc32, .chunk, .encode]) (s : State) : (commandEffect i s).crc = s.crc := by
  cases i with
  | reset => exact absurd rfl hr
  | crcByte b => exact absurd rfl (hb b)
  | crcInit | crc32 | chunk | encode => exact absurd (by decide) hi
  | nop | inClr | crcFin => rfl

/-- The commands that write `RESULT` (R23, R99, R100, R114, R144); all others but `RESET` leave it alone. -/
theorem commandEffect_result {i : Instr} (hr : i ≠ .reset) (hi : i ∉ [Instr.crcFin, .crc32, .chunk, .encode]) (s : State) :
    (commandEffect i s).result = s.result := by
  cases i with
  | reset => exact absurd rfl hr
  | crcFin | crc32 | chunk | encode => exact absurd (by decide) hi
  | nop | inClr | crcInit | crcByte _ => rfl

theorem chunkBuffer_sameUnit (s : State) : (chunkBuffer s).draws = s.draws ∧ (chunkBuffer s).sent = s.sent := by
  obtain ⟨_, e⟩ | ⟨_, e⟩ := chunkBuffer_cases s <;> rw [e] <;> exact ⟨rfl, rfl⟩

/-- Only `ENCODE` asks the DEFLATE unit (R128). -/
theorem commandEffect_sameUnit {i : Instr} (he : i ≠ .encode) (s : State) :
    (commandEffect i s).draws = s.draws ∧ (commandEffect i s).sent = s.sent := by
  cases i with
  | encode => exact absurd rfl he
  | chunk => exact chunkBuffer_sameUnit s
  | nop | reset | inClr | crcInit | crcByte _ | crcFin | crc32 => exact ⟨rfl, rfl⟩

/-- Only the two emitting commands, and `RESET`, touch the fault registers, the phase and the output stream (R38, R179). -/
theorem commandEffect_sameFaultRegs {i : Instr} (hr : i ≠ .reset) (he : i ∉ [Instr.chunk, .encode]) (s : State) :
    SameFaultRegs s (commandEffect i s) ∧ (commandEffect i s).out = s.out := by
  cases i with
  | reset => exact absurd rfl hr
  | chunk | encode => exact absurd (by decide) he
  | nop | inClr | crcInit | crcByte _ | crcFin | crc32 => exact ⟨⟨rfl, rfl, rfl, rfl, rfl⟩, rfl⟩

/-- Settles O50: a faulted block does not change; on a clear one each clause is the frame of that piece of the block. -/
theorem commandsLeaveTheRestAlone : Obligations.CommandsLeaveTheRestAlone := by
  unfold Obligations.CommandsLeaveTheRestAlone
  intro i s t hr h
  rw [exec_eq_unlessFaulted hr] at h
  cases h
  obtain ⟨_, e⟩ | ⟨_, e⟩ := unlessFaulted_cases s (commandEffect i s) <;> rw [e]
  · exact ⟨rfl, rfl, rfl, rfl, rfl, fun _ _ => rfl, fun _ _ => rfl, fun _ => rfl, fun _ => ⟨rfl, rfl, rfl, rfl, rfl, rfl⟩,
      fun _ => ⟨rfl, rfl⟩⟩
  · obtain ⟨hwidth, hheight, htag, hreads, htodo⟩ := commandEffect_sameArguments hr s
    refine ⟨hwidth, hheight, htag, hreads, htodo, fun hc k => ?_, fun hb hi => commandEffect_crc hr hb hi s,
      fun hi => commandEffect_result hr hi s, fun hi => ?_, fun he => commandEffect_sameUnit he s⟩
    · rw [State.readByte, commandEffect_ibuf hr hc, State.readByte]
    · obtain ⟨hregs, hout⟩ := commandEffect_sameFaultRegs hr hi s
      exact ⟨hout, hregs⟩

/-- Settles O52: of the actions in `HostEffect` only a push, `IN.CLR` and a reset write the buffer. -/
theorem bufferChangesOnlyByPushClearReset : Obligations.BufferChangesOnlyByPushClearReset := by
  unfold Obligations.BufferChangesOnlyByPushClearReset
  intro a s t h hne
  cases hostAct_effect h with
  | unchanged | read | illegal | width | height | tag => exact absurd rfl hne
  | reset ha => exact .inr (.inr ⟨ha, rfl⟩)
  | @command i _ hr =>
    by_cases hc : i = .inClr
    · subst hc
      exact .inr (.inl ⟨rfl, rfl⟩)
    · exact absurd (commandEffect_ibuf hr hc s) hne
  | push v =>
    obtain ⟨_, e⟩ | ⟨_, e⟩ := pushByte_cases Config.ibufCap s (pushedByte v)
    · exact absurd (by rw [e, State.raise_ibuf]) hne
    · exact .inl ⟨v, rfl, by rw [e, State.setIbuf_ibuf]⟩

/-- Settles O47: every other action of `HostEffect` leaves a faulted block faulted. -/
theorem onlyResetLeavesTheFaultState : Obligations.OnlyResetLeavesTheFaultState := by
  unfold Obligations.OnlyResetLeavesTheFaultState
  intro a s t hs h ht
  cases hostAct_effect h with
  | reset ha => exact ⟨ha, rfl⟩
  | unchanged | read => exact absurd (hs.symm.trans ht) (by decide)
  | command hf | illegal hf | width _ hf | height _ hf | tag _ hf | push _ hf => exact absurd (hs.symm.trans hf) (by decide)

end Sys2Proof.Machine
end

section
/-! PROOFS. Every step keeps the block's invariant (rules R20, R27, R31, R177, R184). -/

namespace Sys2Proof.Machine

theorem ibufCap_lt : Config.ibufCap < 2 ^ 32 := by
  have h := Config.ibufCapPred.isLt
  simp only [Config.ibufCap]
  omega

/-- `4 * W * H` fits the 66 bits of `EXPECT` for every `W` and `H` (R32). -/
theorem toNat_ofNat_pixelBytes (w h : Word) : (BitVec.ofNat 66 (pixelBytes w h)).toNat = pixelBytes w h := by
  have hmul : w.toNat * h.toNat < 2 ^ 32 * 2 ^ 32 := Nat.mul_lt_mul'' w.isLt h.isLt
  rw [BitVec.toNat_ofNat, Nat.mod_eq_of_lt]
  simp only [pixelBytes, Nat.mul_assoc]
  omega

theorem pixelBytes_of_zero {w h : Word} (hz : w = 0 ∨ h = 0) : pixelBytes w h = 0 := by
  obtain rfl | rfl := hz <;> simp [pixelBytes]

/-- Reset gives the invariant, whatever the state before (R43). -/
theorem toReset_inv (s : State) : s.toReset.Inv :=
  ⟨Memory.wf_nil, rfl, iff_of_false Bool.false_ne_true (not_not.2 rfl), rfl, rfl⟩

namespace State.Inv

theorem bufferLe {s : State} (h : s.Inv) : s.ibuf.length ≤ Config.ibufCap := of_decide_eq_true h.bufferFits

theorem cause_of_clear {s : State} (h : s.Inv) (hf : s.fault = false) : s.cause = .none := by
  by_contra hc
  exact Bool.false_ne_true (hf.symm.trans (h.faultIffCause.2 hc))

theorem after_read {s : State} (h : s.Inv) (v : Word) : (s.addRead v).Inv :=
  ⟨h.bufferFits, h.phaseIdle, h.faultIffCause, h.record⟩

theorem after_setTodo {s : State} (h : s.Inv) (l : List HostAction) : (s.setTodo l).Inv :=
  ⟨h.bufferFits, h.phaseIdle, h.faultIffCause, h.record⟩

theorem after_useDraw {s : State} (h : s.Inv) (raw : List Byte) : (s.useDraw raw).Inv :=
  ⟨h.bufferFits, h.phaseIdle, h.faultIffCause, h.record⟩

/-- On a clear block the record is that of no fault, so the arguments and the buffer are free to change. -/
theorem of_clear {s t : State} (h : s.Inv) (hf : s.fault = false) (hregs : SameFaultRegs s t)
    (hb : Memory.wf t.ibuf = true) : t.Inv := by
  obtain ⟨hfault, hcause, hexpect, hactual, hphase⟩ := hregs
  have hnone : s.cause = .none := h.cause_of_clear hf
  have hrec := h.record
  rw [State.faultRecord, hnone] at hrec
  refine ⟨hb, hphase.trans h.phaseIdle, by rw [hfault, hcause]; exact h.faultIffCause, ?_⟩
  rw [State.faultRecord, hcause, hnone, hexpect, hactual]
  exact hrec

/-- A fault whose record is true gives the invariant (R181). -/
theorem of_raise {s : State} (h : s.Inv) {c : Cause} {e : Nat} {a : Word} (hc : c ≠ .none)
    (hrec : (s.raise c e a).faultRecord) : (s.raise c e a).Inv :=
  ⟨h.bufferFits, rfl, iff_of_true rfl hc, hrec⟩

theorem after_illegal {s : State} (h : s.Inv) {v : Word} (hv : (decode v).toOption = none) :
    (s.raise .illegalCommand 0 v).Inv :=
  h.of_raise (by decide) ⟨rfl, hv⟩

theorem after_push {s : State} (h : s.Inv) (hf : s.fault = false) (b : Byte) :
    (pushByte Config.ibufCap s b).Inv := by
  have hb := Memory.wf_pushByte h.bufferFits b
  obtain ⟨hl, e⟩ | ⟨_, e⟩ := pushByte_cases Config.ibufCap s b <;> rw [e] at hb ⊢
  · have hcap := ibufCap_lt
    exact h.of_raise (by decide) ⟨hl, Nat.mod_eq_of_lt (by omega), Nat.mod_eq_of_lt hcap⟩
  · exact h.of_clear hf ⟨rfl, rfl, rfl, rfl, rfl⟩ hb

/-- A buffer within its capacity fits the length field, so `CHUNK` does not fault (R114). -/
theorem after_chunk {s : State} (h : s.Inv) (hf : s.fault = false) : (chunkBuffer s).Inv := by
  obtain ⟨hl, _⟩ | ⟨_, e⟩ := chunkBuffer_cases s
  · exact absurd (h.bufferLe.trans_lt ibufCap_lt) (Nat.not_lt.2 hl)
  · rw [e]
    exact h.of_clear hf ⟨rfl, rfl, rfl, rfl, rfl⟩ h.bufferFits

/-- Each test of `ENCODE` that fails is the truth its fault records (R146 to R150, R177). -/
theorem after_encode {s : State} (h : s.Inv) (hf : s.fault = false) : (encodeImage Config.codec s).Inv := by
  obtain ⟨hz, e⟩ | ⟨hw, hh, ⟨hl, e⟩ | ⟨hl, ⟨err, _, e⟩ | ⟨_, hc, e⟩ | ⟨_, _, e⟩⟩⟩ := encodeImage_cases Config.codec s <;> rw [e]
  · refine h.of_raise (by decide) ⟨hz, ?_, rfl⟩
    rw [State.raise_expect, pixelBytes_of_zero hz]
    rfl
  · exact h.of_raise (by decide) ⟨hw, hh, hl, toNat_ofNat_pixelBytes .., rfl⟩
  · exact (h.after_useDraw _).of_raise (by decide) ⟨hw, hh, hl, rfl⟩
  · exact (h.after_useDraw _).of_raise (by decide) ⟨hw, hh, hl, hc, rfl, rfl⟩
  · exact h.of_clear hf ⟨rfl, rfl, rfl, rfl, rfl⟩ h.bufferFits

theorem after_command {i : Instr} {s : State} (h : s.Inv) (hf : s.fault = false) : (commandEffect i s).Inv := by
  cases i with
  | reset => exact toReset_inv s
  | inClr => exact h.of_clear hf ⟨rfl, rfl, rfl, rfl, rfl⟩ Memory.wf_nil
  | chunk => exact h.after_chunk hf
  | encode => exact h.after_encode hf
  | nop | crcInit | crcByte _ | crcFin | crc32 => exact h.of_clear hf ⟨rfl, rfl, rfl, rfl, rfl⟩ h.bufferFits

/-- Every host action keeps the invariant. -/
theorem after_action {a : HostAction} {s t : State} (h : s.Inv) (he : HostEffect s a t) : t.Inv := by
  cases he with
  | unchanged => exact h
  | read off => exact h.after_read _
  | reset => exact toReset_inv s
  | command hf => exact h.after_command hf
  | illegal _ hv => exact h.after_illegal hv
  | width _ hf | height _ hf | tag _ hf => exact h.of_clear hf ⟨rfl, rfl, rfl, rfl, rfl⟩ h.bufferFits
  | push v hf => exact h.after_push hf _

end State.Inv

/-- Settles O56: a step is one host action; on a clear block the record is that of no fault, each fault entered records the truth, and a
faulted block changes only by a reset. -/
theorem everyStepKeepsTheInvariant : Obligations.EveryStepKeepsTheInvariant := by
  unfold Obligations.EveryStepKeepsTheInvariant
  exact fun s t hs h => step_keeps (fun l hi => hi.after_setTodo l) State.Inv.after_action hs h

/-- Settles O55: reset from any state gives the invariant, and no packet has been sent. -/
theorem resetMeetsTheInvariant : Obligations.ResetMeetsTheInvariant := by
  unfold Obligations.ResetMeetsTheInvariant
  exact ⟨toReset_inv State.reset, fun _ hp => absurd hp List.not_mem_nil⟩

end Sys2Proof.Machine
end

section
/-! PROOFS. Every step keeps the output stream a list of whole chunks and whole files (rules R38, R114, R143, R156). -/

namespace Sys2Proof.Machine

namespace State.outWhole

theorem of_out_eq {s t : State} (h : s.outWhole) (ho : t.out = s.out) : t.outWhole := by
  rwa [State.outWhole, ho]

theorem of_out_append {s t : State} (h : s.outWhole) {p : List Byte} (ho : t.out = s.out ++ [p])
    (hp : IsChunkPacket p ∨ IsPngPacket p) : t.outWhole := by
  rw [State.outWhole, ho, List.forall_mem_append, List.forall_mem_singleton]
  exact ⟨h, hp⟩

theorem after_chunk {s : State} (h : s.outWhole) : (chunkBuffer s).outWhole := by
  obtain ⟨_, e⟩ | ⟨hl, e⟩ := chunkBuffer_cases s <;> rw [e]
  · exact h.of_out_eq rfl
  · exact h.of_out_append rfl (.inl ⟨tagBytes s, s.ibuf, be32_length s.tag, hl, rfl⟩)

theorem after_encode {s : State} (h : s.outWhole) : (encodeImage Config.codec s).outWhole := by
  obtain ⟨_, e⟩ | ⟨hw, hh, ⟨_, e⟩ | ⟨hl, ⟨_, _, e⟩ | ⟨_, _, e⟩ | ⟨_, hc, e⟩⟩⟩ := encodeImage_cases Config.codec s <;> rw [e]
  case inr.inr.inr.inr => exact h.of_out_append rfl (.inr ⟨s.width, s.height, s.ibuf, hw, hh, hl, hc, rfl⟩)
  all_goals exact h.of_out_eq rfl

/-- Every host action keeps the stream whole. -/
theorem after_action {a : HostAction} {s t : State} (h : s.outWhole) (he : HostEffect s a t) : t.outWhole := by
  cases he with
  | unchanged | read | reset | illegal | width | height | tag => exact h.of_out_eq rfl
  | push => exact h.of_out_eq (pushByte_out ..)
  | @command i _ hr =>
    by_cases hi : i ∈ [Instr.chunk, .encode]
    · obtain rfl | rfl := List.mem_pair.1 hi
      · exact h.after_chunk
      · exact h.after_encode
    · exact h.of_out_eq (commandEffect_sameFaultRegs hr hi s).2

end State.outWhole

/-- Settles O57: a step is one host action; `CHUNK` appends a whole chunk, `ENCODE` a whole file, and no other action touches the
output stream. -/
theorem everyStepKeepsPacketsWhole : Obligations.EveryStepKeepsPacketsWhole := by
  unfold Obligations.EveryStepKeepsPacketsWhole
  exact fun s t hs h => step_keeps (fun _ hw => hw.of_out_eq rfl) State.outWhole.after_action hs h

end Sys2Proof.Machine
end

section
/-! PROOFS. The two emitting commands do not look at each other's arguments, nor at the engine (rules R24 to R26, R114, R142, R144). -/

namespace Sys2Proof.Machine

/-- A change `f` that the effect of a command carries along is carried along by the command, on a clear and on a faulted block. -/
theorem exec_map {i : Instr} {f : State → State} {s t : State} (hr : i ≠ .reset) (hfault : (f s).fault = s.fault)
    (hf : commandEffect i (f s) = f (commandEffect i s)) (h : exec i s = .next t) : exec i (f s) = .next (f t) := by
  rw [exec_eq_unlessFaulted hr] at h ⊢
  cases h
  rw [hf, unlessFaulted, unlessFaulted, hfault, apply_ite f]

theorem exec_chunk_of_clear {s : State} (h : s.fault = false) : exec .chunk s = .next (chunkBuffer s) :=
  exec_of_clear h (by decide)

theorem chunkBuffer_of_fits {s : State} (h : s.ibuf.length < 2 ^ 32) :
    chunkBuffer s = (s.checksum (tagBytes s ++ s.ibuf)).addPacket (frame (tagBytes s) s.ibuf) := by
  obtain ⟨hl, _⟩ | ⟨_, e⟩ := chunkBuffer_cases s
  · exact absurd h (Nat.not_lt.2 hl)
  · exact e

theorem chunkBuffer_of_long {s : State} (h : 2 ^ 32 ≤ s.ibuf.length) : chunkBuffer s = s.raisePayloadOverflow := by
  obtain ⟨_, e⟩ | ⟨hl, _⟩ := chunkBuffer_cases s
  · exact e
  · exact absurd h (Nat.not_le.2 hl)

theorem chunkBuffer_setDims (s : State) (x y : Word) :
    chunkBuffer ((s.setWidth x).setHeight y) = ((chunkBuffer s).setWidth x).setHeight y := by
  obtain ⟨hl, e⟩ | ⟨hl, e⟩ := chunkBuffer_cases s <;> rw [e]
  · exact chunkBuffer_of_long hl
  · exact chunkBuffer_of_fits hl

/-- A chunk that is sent leaves the engine with its own checksum, whatever the engine held (R114). -/
theorem chunkBuffer_setEngine {s : State} (h : s.ibuf.length < 2 ^ 32) (x y : Word) :
    chunkBuffer ((s.setCrc x).setResult y) = chunkBuffer s := by
  rw [chunkBuffer_of_fits h]
  exact chunkBuffer_of_fits h

theorem encodeImage_setTag (D : Codec) (s : State) (x : Word) :
    encodeImage D (s.setTag x) = (encodeImage D s).setTag x := by
  obtain ⟨hz, e⟩ | ⟨hw, hh, ⟨hl, e⟩ | ⟨hl, ⟨err, hd, e⟩ | ⟨hd, hc, e⟩ | ⟨hd, hc, e⟩⟩⟩ := encodeImage_cases D s <;> rw [e]
  · exact encodeImage_of_zero D hz
  · exact encodeImage_of_mismatch D hw hh hl
  · exact encodeImage_of_err D hw hh hl hd
  · exact encodeImage_of_long D hw hh hl hd (Nat.not_lt.2 hc)
  · exact encodeImage_of_short D hw hh hl hd hc

/-- What `ENCODE` emits, and whether it faults, does not depend on what the engine held (R144). -/
theorem encodeImage_setEngine (D : Codec) (s : State) (x y : Word) :
    (encodeImage D ((s.setCrc x).setResult y)).out = (encodeImage D s).out ∧
      (encodeImage D ((s.setCrc x).setResult y)).fault = (encodeImage D s).fault := by
  obtain ⟨hz, e⟩ | ⟨hw, hh, ⟨hl, e⟩ | ⟨hl, ⟨err, hd, e⟩ | ⟨hd, hc, e⟩ | ⟨hd, hc, e⟩⟩⟩ := encodeImage_cases D s <;> rw [e]
  · rw [encodeImage_of_zero D (s := (s.setCrc x).setResult y) hz]
    exact ⟨rfl, rfl⟩
  · rw [encodeImage_of_mismatch D (s := (s.setCrc x).setResult y) hw hh hl]
    exact ⟨rfl, rfl⟩
  · rw [encodeImage_of_err D (s := (s.setCrc x).setResult y) hw hh hl hd]
    exact ⟨rfl, rfl⟩
  · rw [encodeImage_of_long D (s := (s.setCrc x).setResult y) hw hh hl hd (Nat.not_lt.2 hc)]
    exact ⟨rfl, rfl⟩
  · rw [encodeImage_of_short D (s := (s.setCrc x).setResult y) hw hh hl hd hc]
    exact ⟨rfl, rfl⟩

theorem exec_encode_setEngine {s t : State} (h : exec .encode s = .next t) (x y : Word) :
    ∃ t', exec .encode ((s.setCrc x).setResult y) = .next t' ∧ t'.out = t.out ∧ t'.fault = t.fault := by
  by_cases hf : s.fault = true
  · cases (exec_of_fault hf (by decide)).symm.trans h
    exact ⟨_, exec_of_fault hf (by decide), rfl, rfl⟩
  · rw [Bool.not_eq_true] at hf
    cases (exec_encode_of_clear hf).symm.trans h
    exact ⟨_, exec_encode_of_clear hf, encodeImage_setEngine _ s x y⟩

/-- Settles O44: each command takes the same branch whatever the other's arguments and the engine hold, and carries the former along. -/
theorem emittingCommandsIgnoreEachOthersArguments : Obligations.EmittingCommandsIgnoreEachOthersArguments := by
  unfold Obligations.EmittingCommandsIgnoreEachOthersArguments
  refine ⟨fun s t x h => ?_, fun s t x y h => ?_, fun s t x y hf hl h => ?_, fun s t x y h => ?_⟩
  · exact exec_map (f := fun u => u.setTag x) (by decide) rfl (encodeImage_setTag _ s x) h
  · exact exec_map (f := fun u => (u.setWidth x).setHeight y) (by decide) rfl (chunkBuffer_setDims s x y) h
  · cases (exec_chunk_of_clear hf).symm.trans h
    rw [← chunkBuffer_setEngine (hl.trans_lt ibufCap_lt) x y]
    exact exec_chunk_of_clear hf
  · exact exec_encode_setEngine h x y

end Sys2Proof.Machine
end

section
/-! PROOFS. The register map, and what reads and ignored writes do (rules R29 to R36, R164, R167). -/

namespace Sys2Proof.Machine

/-- The map finds each register at its offset (R36). -/
theorem regAt_offset (r : Reg) : regAt r.offset = some r := by
  cases r <;> rfl

/-- Every offset of the map is a multiple of 4 up to `0x38` (R36). -/
theorem Reg.offset_aligned (r : Reg) : r.offset % 4 = 0 ∧ r.offset ≤ 0x38 := by
  cases r <;> decide

/-- From `0x3C` on no offset names a register (R36). -/
theorem regAt_reserved {off : Nat} (h : 0x3C ≤ off) : regAt off = none := by
  cases hr : regAt off with
  | none => rfl
  | some r =>
    have ho := regAt_some hr
    have hle := r.offset_aligned.2
    omega

/-- Settles O7: the fifteen aligned offsets below `0x3C` all name a register. -/
theorem registerMapIsOneToOne : Obligations.RegisterMapIsOneToOne := by
  unfold Obligations.RegisterMapIsOneToOne
  refine ⟨fun r off => ⟨regAt_some, ?_⟩, Reg.offset_aligned, fun k => ⟨fun h => ?_, regAt_reserved⟩⟩
  · rintro rfl
    exact regAt_offset r
  · have hall : ∀ k < 15, regAt (4 * k) ≠ none := by decide
    by_contra hlt
    exact hall k (by omega) h

/-- A write to a read-only register is ignored (R167). -/
theorem hostAct_write_readOnly {r : Reg} (hr : r.access = .ro) (v : Word) (s : State) :
    hostAct (.regWrite .word r.offset v) s = .next s := by
  cases r with
  | cmd | width | height | tag | idata => exact absurd hr (by decide)
  | status | cause | expect0 | expect1 | expect2 | actual | crc | result | ilen | cap => rfl

/-- A write to a reserved offset is ignored (R36, R167). -/
theorem hostAct_write_reserved {off : Nat} (ha : off % 4 = 0) (hge : 0x3C ≤ off) (hle : off ≤ 0xFC) (v : Word) (s : State) :
    hostAct (.regWrite .word off v) s = .next s := by
  rw [hostAct_regWrite ha hle, writeAt, regAt_reserved hge]

/-- The offsets of the read-only registers (R36). -/
theorem offset_of_readOnly {off : Nat} (h : off ∈ [0x04, 0x08, 0x0C, 0x10, 0x14, 0x18, 0x1C, 0x20, 0x30, 0x38]) :
    ∃ r : Reg, r.access = .ro ∧ r.offset = off := by
  have hoffsets : [0x04, 0x08, 0x0C, 0x10, 0x14, 0x18, 0x1C, 0x20, 0x30, 0x38] =
      (Reg.all.filter fun r => r.access = .ro).map Reg.offset := by decide
  rw [hoffsets, List.mem_map] at h
  obtain ⟨r, hr, ho⟩ := h
  exact ⟨r, of_decide_eq_true (List.mem_filter.1 hr).2, ho⟩

/-- Settles O10: each of the ten offsets is that of a read-only register, and the others are reserved. -/
theorem readOnlyAndReservedWritesAreIgnored : Obligations.ReadOnlyAndReservedWritesAreIgnored := by
  unfold Obligations.ReadOnlyAndReservedWritesAreIgnored
  rintro s off v (h | ⟨ha, hge, hle⟩)
  · obtain ⟨r, hr, rfl⟩ := offset_of_readOnly h
    exact hostAct_write_readOnly hr v s
  · exact hostAct_write_reserved ha hge hle v s

/-- A read at a register's offset records the register's value (R164). -/
theorem hostAct_read_register (r : Reg) {s : State} {v : Word} (h : regValue s r = v) :
    hostAct (.regRead .word r.offset) s = .next (s.addRead v) := by
  obtain ⟨ha, hle⟩ := r.offset_aligned
  rw [hostAct_regRead ha (by omega), readAt, regAt_offset, ← h]

/-- A read at a reserved offset records 0 (R36, R164). -/
theorem hostAct_read_reserved {off : Nat} (ha : off % 4 = 0) (hge : 0x3C ≤ off) (hle : off ≤ 0xFC) (s : State) :
    hostAct (.regRead .word off) s = .next (s.addRead 0) := by
  rw [hostAct_regRead ha hle, readAt, regAt_reserved hge]

/-! The parts of `EXPECT` by division (R32). -/

theorem expect0Word_eq (s : State) : expect0Word s = BitVec.ofNat 32 s.expect.toNat := by
  rw [expect0Word, BitVec.extractLsb', Nat.shiftRight_zero]

theorem expect1Word_eq (s : State) : expect1Word s = BitVec.ofNat 32 (s.expect.toNat / 2 ^ 32) := by
  rw [expect1Word, BitVec.extractLsb', Nat.shiftRight_eq_div_pow]

theorem expect2Word_toNat (s : State) : (expect2Word s).toNat = s.expect.toNat / 2 ^ 64 := by
  have hlt : s.expect.toNat < 2 ^ 66 := s.expect.isLt
  rw [expect2Word, BitVec.toNat_setWidth, BitVec.extractLsb'_toNat, Nat.shiftRight_eq_div_pow]
  omega

theorem expect2Word_eq (s : State) : expect2Word s = BitVec.ofNat 32 (s.expect.toNat / 2 ^ 64) := by
  rw [← expect2Word_toNat, BitVec.ofNat_toNat, BitVec.setWidth_eq]

/-- Settles O45: the three words are the quotient by `2^64` and the two 32-bit digits below it. -/
theorem expectIsReadWhole : Obligations.ExpectIsReadWhole := by
  unfold Obligations.ExpectIsReadWhole
  have h2 (s : State) : (readAt s 0x14).toNat = s.expect.toNat / 2 ^ 64 := expect2Word_toNat s
  refine ⟨fun s => ?_, toNat_ofNat_pixelBytes, fun s => ?_, rfl, fun s v off hoff => ?_⟩
  · have h0 : readAt s 0x0C = BitVec.ofNat 32 s.expect.toNat := expect0Word_eq s
    have h1 : readAt s 0x10 = BitVec.ofNat 32 (s.expect.toNat / 2 ^ 32) := expect1Word_eq s
    rw [h0, h1, h2, BitVec.toNat_ofNat, BitVec.toNat_ofNat]
    omega
  · have hlt : s.expect.toNat < 2 ^ 66 := s.expect.isLt
    rw [h2]
    omega
  · have hsub : [0x0C, 0x10, 0x14] ⊆ [0x04, 0x08, 0x0C, 0x10, 0x14, 0x18, 0x1C, 0x20, 0x30, 0x38] := by decide
    obtain ⟨r, hr, rfl⟩ := offset_of_readOnly (hsub hoff)
    exact hostAct_write_readOnly hr v s

/-- Settles O8: each of the fifteen offsets is a register's, with that register's value; `CAUSE` is the code of each cause. -/
theorem readsReturnTheRegisters : Obligations.ReadsReturnTheRegisters := by
  unfold Obligations.ReadsReturnTheRegisters
  refine fun s => ⟨?_, fun off ha hge hle => hostAct_read_reserved ha hge hle s⟩
  simp only [List.forall_mem_cons]
  refine ⟨hostAct_read_register .cmd rfl, hostAct_read_register .status rfl, hostAct_read_register .cause ?_,
    hostAct_read_register .expect0 (expect0Word_eq s), hostAct_read_register .expect1 (expect1Word_eq s),
    hostAct_read_register .expect2 (expect2Word_eq s), hostAct_read_register .actual rfl, hostAct_read_register .crc rfl,
    hostAct_read_register .result rfl, hostAct_read_register .width rfl, hostAct_read_register .height rfl,
    hostAct_read_register .tag rfl, hostAct_read_register .ilen rfl, hostAct_read_register .idata rfl,
    hostAct_read_register .cap rfl, List.forall_mem_nil _⟩
  rw [regValue, causeWord]
  cases s.cause <;> rfl

end Sys2Proof.Machine
end

section
/-! PROOFS. Reset, from every state (rules R43, R161, R200 to R202). -/

namespace Sys2Proof.Machine

/-- Every register as the host reads it after reset (R43). -/
theorem regValue_toReset (s : State) (r : Reg) :
    regValue s.toReset r = if r = .crc then 0xFFFFFFFF else if r = .cap then BitVec.ofNat 32 Config.ibufCap else 0 := by
  cases r with
  | expect1 => exact (by decide : (0 : BitVec 66).extractLsb' 32 32 = 0)
  | expect2 => exact (by decide : ((0 : BitVec 66).extractLsb' 64 2).setWidth 32 = 0)
  | cmd | status | cause | expect0 | actual | crc | result | width | height | tag | ilen | idata | cap => rfl

/-- Settles O13: the command, its word and the reset input all are `State.toReset`, after which both dimensions are 0. -/
theorem resetGivesTheResetState : Obligations.ResetGivesTheResetState := by
  unfold Obligations.ResetGivesTheResetState
  refine ⟨rfl, fun s => ⟨s.toReset, rfl, rfl, rfl, regValue_toReset s, rfl, rfl, rfl, rfl, rfl, rfl, ?_⟩⟩
  rw [exec_encode_of_clear (State.toReset_fault s), encodeImage_of_zero _ (.inl (State.toReset_width s))]
  rfl

/-- Settles O14: `RESET` is `State.toReset`, which is written so. -/
theorem resetStateIsWhatResetLeaves : Obligations.ResetStateIsWhatResetLeaves := by
  unfold Obligations.ResetStateIsWhatResetLeaves
  exact fun s => rfl

end Sys2Proof.Machine
end

section
/-! PROOFS. The order of the sequencer's phases (rules R27, R145), and the beats of a packet (R38, R55). -/

namespace Sys2Proof.Machine

theorem Seq.go_fault (q : Seq) (p : Phase) : (q.go p).st.fault = q.st.fault := rfl
theorem Seq.go_phase (q : Seq) (p : Phase) : (q.go p).st.phase = p := rfl
theorem Seq.emitLast_fault (q : Seq) : q.emitLast.st.fault = q.st.fault := rfl

/-- Feeding bytes to the engine does not fault (R112). -/
theorem foldl_sendFed_fault (bs : List Byte) (q : Seq) : (bs.foldl Seq.sendFed q).st.fault = q.st.fault := by
  induction bs generalizing q with
  | nil => rfl
  | cons b bs ih => exact ih (q.sendFed b)

/-- The chunk framer, past its length check, does not fault (R112). -/
theorem frameBody_fault (t p : List Byte) (q : Seq) : (frameBody t p q).st.fault = q.st.fault :=
  (foldl_sendFed_fault p _).trans (foldl_sendFed_fault t _)

/-- Settles O37: by the phases; the four that test or ask the unit may fault, the three that frame a chunk may not. -/
theorem phasesFollowOneLine : Obligations.PhasesFollowOneLine := by
  unfold Obligations.PhasesFollowOneLine
  intro D q hf
  unfold phaseStep
  cases hp : q.st.phase with
  | idle => exact .inl ⟨hf, hp⟩
  | chkDim | chkLen | defl | chkPay =>
    dsimp only
    split
    · exact .inr ⟨rfl, rfl, by decide⟩
    · exact .inl ⟨hf, rfl⟩
  | scan | sig => exact .inl ⟨hf, rfl⟩
  | ihdr | idat => exact .inl ⟨by rw [Seq.go_fault, frameBody_fault, hf], Seq.go_phase ..⟩
  | iend => exact .inl ⟨by rw [Seq.go_fault, Seq.emitLast_fault, frameBody_fault, hf], Seq.go_phase ..⟩

/-- The beats of a packet carry its bytes in order (R55). -/
theorem beats_bytes (p : List Byte) : (beats p).map Prod.fst = p := by
  induction p using beats.induct with
  | case1 => rfl
  | case2 b => rfl
  | case3 b c p ih => rw [beats, List.map_cons, ih]

/-- The mark of a beat says whether it is the final one (R55). -/
theorem beats_mark (p : List Byte) {k : Nat} (hk : k < p.length) :
    ((beats p)[k]?).map Prod.snd = some (decide (k + 1 = p.length)) := by
  induction p using beats.induct generalizing k with
  | case1 => exact absurd hk (Nat.not_lt_zero k)
  | case2 b =>
    obtain rfl : k = 0 := Nat.lt_one_iff.1 hk
    rfl
  | case3 b c p ih =>
    cases k with
    | zero => simp [beats]
    | succ k =>
      rw [beats, List.getElem?_cons_succ, ih (Nat.lt_of_succ_lt_succ hk)]
      simp

/-- Settles O54: by induction on the packet, two bytes at its head deciding that the first is not the last. -/
theorem beatsMarkTheLastByteOnly : Obligations.BeatsMarkTheLastByteOnly := by
  unfold Obligations.BeatsMarkTheLastByteOnly
  exact fun p => ⟨beats_bytes p, fun _ hk => beats_mark p hk⟩

end Sys2Proof.Machine
end

section
/-! PROOFS. Which host actions complete and which are refused, and what a written command word runs (rules
R59, R62, R79, R80, R166, R169). -/

namespace Sys2Proof.Machine

/-- The accesses of the interface (R59). -/
theorem accessLegal_iff {size : AccessSize} {off : Nat} :
    accessLegal size off = true ↔ size = .word ∧ off % 4 = 0 ∧ off ≤ 0xFC := by
  simp [accessLegal, and_assoc]

/-- An action of the interface completes (R62, R213). -/
theorem hostAct_completes {a : HostAction} (h : a.wellFormed = true) (s : State) : ∃ t, hostAct a s = .next t := by
  cases a with
  | regWrite size off v =>
    obtain ⟨rfl, ha, hle⟩ := accessLegal_iff.1 h
    rw [hostAct_regWrite ha hle]
    exact writeAt_completes off v s
  | regRead size off =>
    obtain ⟨rfl, ha, hle⟩ := accessLegal_iff.1 h
    exact ⟨_, hostAct_regRead ha hle s⟩
  | hardReset => exact ⟨_, rfl⟩
  | nothing => exact ⟨_, rfl⟩

/-- A run of actions of the interface completes (R169, R215). -/
theorem runActions_completes {as : List HostAction} (h : ∀ a ∈ as, a.wellFormed = true) (s : State) :
    ∃ t, runActions as s = .next t := by
  induction as generalizing s with
  | nil => exact ⟨s, rfl⟩
  | cons a as ih =>
    obtain ⟨ha, has⟩ := List.forall_mem_cons.1 h
    obtain ⟨u, hu⟩ := hostAct_completes ha s
    rw [runActions, hu]
    exact ih has u

/-- A whole word at a register's offset is an access of the interface (R36, R59). -/
theorem accessLegal_offset (r : Reg) : accessLegal .word r.offset = true := by
  obtain ⟨ha, hle⟩ := r.offset_aligned
  exact accessLegal_iff.2 ⟨rfl, ha, by omega⟩

/-- Every line of the syntax stands for actions of the interface only (R79, R80), `WR` of any register included. -/
theorem AsmLine.actions_wellFormed (l : AsmLine) : ∀ a ∈ l.actions, a.wellFormed = true := by
  cases l with
  | command i => exact List.forall_mem_singleton.2 rfl
  | wr r v => exact List.forall_mem_singleton.2 (accessLegal_offset r)
  | push v => exact List.forall_mem_singleton.2 rfl
  | rd r => exact List.forall_mem_singleton.2 (accessLegal_offset r)
  | load bs => exact List.forall_mem_cons.2 ⟨rfl, List.forall_mem_map.2 fun _ _ => rfl⟩
  | crcStr bs => exact List.forall_mem_map.2 fun _ _ => rfl
  | setTag w x y z => exact List.forall_mem_singleton.2 rfl
  | setDim w h => exact List.forall_mem_cons.2 ⟨rfl, List.forall_mem_singleton.2 rfl⟩
  | hreset => exact List.forall_mem_singleton.2 rfl

/-- A program stands for actions of the interface only (R79, R80). -/
theorem assemble_wellFormed (ls : List AsmLine) : ∀ a ∈ assemble ls, a.wellFormed = true :=
  List.forall_mem_flatMap.2 fun l _ => l.actions_wellFormed

/-- Settles O6: the interface's accesses are those that `hostAct` admits, and a program consists of such accesses and resets. -/
theorem legalActionsCompleteOthersAreRefused : Obligations.LegalActionsCompleteOthersAreRefused := by
  unfold Obligations.LegalActionsCompleteOthersAreRefused
  refine ⟨fun _ s h => hostAct_completes h s, fun s size off v h => ?_, fun ls s _ => runActions_completes (assemble_wellFormed ls) s⟩
  have hl : ¬ accessLegal size off = true := mt accessLegal_iff.1 h
  exact ⟨if_neg hl, if_neg hl⟩

/-- A table word that decodes is a word of the decoder (R56, R70). -/
theorem decode_tableWord {n w : Nat} {i : Instr} (h : decodeTableWord n w = some i) : decode (tableWord n w) = .ok i := by
  unfold decodeTableWord at h
  cases hd : decode (tableWord n w) with
  | ok j =>
    rw [hd] at h
    exact congrArg _ (Option.some.inj h)
  | error e =>
    rw [hd] at h
    cases h

/-- A step whose action writes a command's word to `CMD` is the command (R61, R166). -/
theorem step_of_written_command {s : State} {v : Word} {i : Instr} {rest : List HostAction}
    (htodo : s.todo = writeCmdAction v :: rest) (hd : decode v = .ok i) : step s = exec i (s.setTodo rest) := by
  rw [step, stepHost, htodo]
  exact (hostAct_writeCmd v _).trans (writeCmd_of_ok hd _)

/-- Settles O4: `withFetchWord` is one such list of actions, and taking the action off it again gives the state back. -/
theorem stepRunsTheDecodedCommand : Obligations.StepRunsTheDecodedCommand := by
  unfold Obligations.StepRunsTheDecodedCommand
  exact ⟨fun _ _ _ _ htodo hd _ => step_of_written_command htodo hd,
    fun s w _ hd _ => step_of_written_command (s := s.withFetchWord 32 w) rfl (decode_tableWord hd)⟩

end Sys2Proof.Machine
end

section
/-! PROOFS. The scanline framer, row by row: where a row stands in the raw form, and the way back to the pixels (rules
R52, R121 to R123). -/

namespace Sys2Proof.Machine

/-- In blocks of one length, joined, block `y` begins at `y` times that length. -/
theorem drop_flatten_of_length {α : Type} {bs : List (List α)} {k : Nat} (h : ∀ b ∈ bs, b.length = k) (y : Nat) :
    bs.flatten.drop (y * k) = (bs.drop y).flatten := by
  induction bs generalizing y with
  | nil => simp
  | cons b bs ih =>
    obtain ⟨hb, hbs⟩ := List.forall_mem_cons.1 h
    cases y with
    | zero => simp
    | succ y =>
      rw [Nat.succ_mul, Nat.add_comm, ← hb, List.flatten_cons, List.drop_length_add_append, List.drop_succ_cons, hb]
      exact ih hbs y

/-- The first pieces of length `k` of a list, joined, are a prefix of it. -/
theorem flatMap_range_take_drop {α : Type} (l : List α) (k n : Nat) :
    ((List.range n).flatMap fun y => (l.drop (y * k)).take k) = l.take (n * k) := by
  induction n with
  | zero => simp
  | succ n ih => rw [List.range_succ, List.flatMap_append, ih, List.flatMap_singleton, Nat.succ_mul, List.take_add]

/-- A pixel buffer of the right size is `H` rows of `4 * W` bytes (R121, R147). -/
theorem pixelBytes_eq_rows (w h : Word) : pixelBytes w h = h.toNat * (4 * w.toNat) :=
  Nat.mul_comm ..

/-- Every row of an image lies inside a pixel buffer of the right size (R52). -/
theorem row_inside {w h : Word} {pix : List Byte} (hp : pix.length = pixelBytes w h) {y : Nat} (hy : y < h.toNat) :
    y * (4 * w.toNat) + 4 * w.toNat ≤ pix.length := by
  rw [hp, pixelBytes_eq_rows, ← Nat.succ_mul]
  exact Nat.mul_le_mul_right _ hy

/-- In the raw form row `y` begins at `y` row strides (R121, R122). -/
theorem drop_scan {w h : Word} {pix : List Byte} (hp : pix.length = pixelBytes w h) {y : Nat} (hy : y < h.toNat) :
    ∃ rest, (scan w h pix).drop (y * rowStride w) = scanRow w pix y ++ rest := by
  have hrows : ∀ b ∈ (List.range h.toNat).map (scanRow w pix), b.length = rowStride w :=
    List.forall_mem_map.2 fun i hi => scanRow_length (row_inside hp (List.mem_range.1 hi))
  have hlt : y < ((List.range h.toNat).map (scanRow w pix)).length := by simpa using hy
  rw [scan, List.flatMap_def, drop_flatten_of_length hrows, List.drop_eq_getElem_cons hlt, List.getElem_map, List.getElem_range]
  exact ⟨_, rfl⟩

/-- Past its filter byte, row `y` of the raw form holds the row's pixel bytes (R121, R122). -/
theorem take_drop_scan {w h : Word} {pix : List Byte} (hp : pix.length = pixelBytes w h) {y : Nat} (hy : y < h.toNat) :
    ((scan w h pix).drop (y * rowStride w + 1)).take (4 * w.toNat) = (pix.drop (y * (4 * w.toNat))).take (4 * w.toNat) := by
  obtain ⟨rest, hrest⟩ := drop_scan hp hy
  have hlen : ((pix.drop (y * (4 * w.toNat))).take (4 * w.toNat)).length = 4 * w.toNat := by
    have := row_inside hp hy
    rw [List.length_take, List.length_drop]
    omega
  rw [← List.drop_drop, hrest, scanRow, List.cons_append, List.drop_one, List.tail_cons, List.take_left' hlen]

/-- Stripping the filter bytes undoes the framing (R122 (d)). -/
theorem unscan_scan {w h : Word} {pix : List Byte} (hp : pix.length = pixelBytes w h) : unscan w h (scan w h pix) = pix := by
  calc unscan w h (scan w h pix)
    _ = (List.range h.toNat).flatMap fun y => (pix.drop (y * (4 * w.toNat))).take (4 * w.toNat) :=
      List.flatMap_congr fun y hy => take_drop_scan hp (List.mem_range.1 hy)
    _ = pix.take (h.toNat * (4 * w.toNat)) := flatMap_range_take_drop ..
    _ = pix := List.take_of_length_le (by rw [hp, pixelBytes_eq_rows])

/-- Byte `i` of row `y` stands after the row's filter byte (R121). -/
theorem scan_getElem? {w h : Word} {pix : List Byte} (hp : pix.length = pixelBytes w h) {y i : Nat} (hy : y < h.toNat)
    (hi : i < 4 * w.toNat) : (scan w h pix)[y * rowStride w + 1 + i]? = pix[y * (4 * w.toNat) + i]? := by
  calc (scan w h pix)[y * rowStride w + 1 + i]?
    _ = (((scan w h pix).drop (y * rowStride w + 1)).take (4 * w.toNat))[i]? := by
      rw [List.getElem?_take_of_lt hi, List.getElem?_drop]
    _ = pix[y * (4 * w.toNat) + i]? := by
      rw [take_drop_scan hp hy, List.getElem?_take_of_lt hi, List.getElem?_drop]

/-- Channel `k` of pixel `(x, y)` is byte `4 * x + k` of row `y` (R52). -/
theorem pixelIndex_eq_row (w : Word) (x y k : Nat) : pixelIndex w x y k = y * (4 * w.toNat) + (4 * x + k) := by
  rw [pixelIndex]
  ring

/-- Settles O32: framing has a left inverse, and a channel's byte lies inside its row. -/
theorem unscanRecoversThePixels : Obligations.UnscanRecoversThePixels := by
  unfold Obligations.UnscanRecoversThePixels
  refine ⟨fun w h pix pix' hp hp' => ⟨unscan_scan hp, fun heq => ?_⟩, fun w h pix x y k hp hx hy hk => ?_⟩
  · rw [← unscan_scan hp, heq, unscan_scan hp']
  · have hi : 4 * x + k < 4 * w.toNat := by omega
    rw [pixelIndex_eq_row, Nat.add_assoc _ (4 * x) k, scan_getElem? hp hy hi]
    exact ⟨(Nat.add_lt_add_left hi _).trans_le (row_inside hp hy), rfl⟩

end Sys2Proof.Machine
end

section
/-! PROOFS. The decoder and the encoder are inverse to each other (rules R70 to R75). -/

namespace Sys2Proof

/-- Each command's word has that command's fields (R70, R72, R73). -/
theorem fieldsOf_encode (i : Instr) : FieldsOf (encode i) i := by
  cases i with
  | nop => exact Laws.EncodingShape.nop.2
  | reset => exact Laws.EncodingShape.reset.2
  | inClr => exact Laws.EncodingShape.inClr.2
  | crcInit => exact Laws.EncodingShape.crcInit.2
  | crcByte b => exact (Laws.EncodingShape.crcByte b).2
  | crcFin => exact Laws.EncodingShape.crcFin.2
  | crc32 => exact Laws.EncodingShape.crc32.2
  | chunk => exact Laws.EncodingShape.chunk.2
  | encode => exact Laws.EncodingShape.encode.2

/-- The decoder looks at the three fields only: a word with the fields of a command decodes to it (R72, R74). -/
theorem FieldsOf.decode_eq {v : Word} {i : Instr} (h : FieldsOf v i) : decode v = .ok i := by
  obtain ⟨hop, hzero, himm⟩ := h
  cases i <;> simp [decode, decodeN, decodeB, hop, hzero, himm, Instr.opcode, Instr.operand]

@[simp] theorem decode_encode (i : Instr) : decode (encode i) = .ok i := (fieldsOf_encode i).decode_eq

theorem decode_eq_ok_iff {v : Word} {i : Instr} : decode v = .ok i ↔ v = encode i :=
  ⟨eq_encode_of_decode, fun h => h ▸ decode_encode i⟩

/-- Settles O1: the fields of a word that decodes are those of its command, and the fields determine both the word and what it
decodes to. -/
theorem decodeIffEncode : Obligations.DecodeIffEncode := by
  unfold Obligations.DecodeIffEncode
  exact fun _ _ => decode_eq_ok_iff

/-- A command's word as a number: the opcode in bits 31:24, the operand in bits 7:0 (R70). -/
theorem encode_toNat (i : Instr) : (encode i).toNat = i.opcode.toNat * 2 ^ 24 + i.operand.toNat := by
  rw [encode, BitVec.toNat_append, BitVec.toNat_append, ← Nat.shiftLeft_add_eq_or_of_lt i.operand.isLt]
  simp only [BitVec.ofNat_eq_ofNat, BitVec.toNat_ofNat, Nat.zero_mod, Nat.or_zero, Nat.shiftLeft_eq]
  omega

theorem encode_crcByte_toNat (b : Byte) : (encode (.crcByte b)).toNat = 0x11000000 + b.toNat := by
  simp [encode_toNat, Instr.opcode, Instr.operand]

/-- A word decodes to a command exactly when its number is that of the command's word (R72). -/
theorem decode_eq_ok_iff_toNat {v : Word} {i : Instr} {n : Nat} (hn : (encode i).toNat = n) :
    decode v = .ok i ↔ v.toNat = n := by
  rw [decode_eq_ok_iff, ← hn, BitVec.toNat_inj]

/-- A word is rejected when it decodes to no command (R75). -/
theorem decode_toOption_eq_none_iff {v : Word} : (decode v).toOption = none ↔ ¬ ∃ i, decode v = .ok i := by
  cases decode v with
  | ok i => exact iff_of_false nofun (not_not.2 ⟨i, rfl⟩)
  | error e => exact iff_of_true rfl nofun

/-- The numbers of the legal words: the eight of format `N`, and the 256 of `CRC.BYTE` (R72). -/
theorem exists_eq_encode_iff {v : Word} :
    (∃ i, v = encode i) ↔
      v.toNat ∈ [0x00000000, 0x01000000, 0x02000000, 0x10000000, 0x12000000, 0x13000000, 0x20000000, 0x30000000] ∨
        0x11000000 ≤ v.toNat ∧ v.toNat ≤ 0x110000FF := by
  constructor
  · rintro ⟨i, rfl⟩
    cases i with
    | crcByte b =>
      have hb : b.toNat < 256 := b.isLt
      rw [encode_crcByte_toNat]
      exact .inr (by omega)
    | nop | reset | inClr | crcInit | crcFin | crc32 | chunk | encode => exact .inl (by decide)
  · rintro (hv | ⟨hge, hle⟩)
    · simp only [List.mem_cons, List.not_mem_nil, or_false] at hv
      obtain hv | hv | hv | hv | hv | hv | hv | hv := hv
      exacts [⟨.nop, BitVec.eq_of_toNat_eq hv⟩, ⟨.reset, BitVec.eq_of_toNat_eq hv⟩, ⟨.inClr, BitVec.eq_of_toNat_eq hv⟩,
        ⟨.crcInit, BitVec.eq_of_toNat_eq hv⟩, ⟨.crcFin, BitVec.eq_of_toNat_eq hv⟩, ⟨.crc32, BitVec.eq_of_toNat_eq hv⟩,
        ⟨.chunk, BitVec.eq_of_toNat_eq hv⟩, ⟨.encode, BitVec.eq_of_toNat_eq hv⟩]
    · refine ⟨.crcByte (BitVec.ofNat 8 (v.toNat - 0x11000000)), BitVec.eq_of_toNat_eq ?_⟩
      rw [encode_crcByte_toNat, BitVec.toNat_ofNat]
      omega

/-- Settles O2: each form is its command's word by number (O1), and what decodes to nothing is what is no command's word. -/
theorem decoderAcceptsExactlyTheNineForms : Obligations.DecoderAcceptsExactlyTheNineForms := by
  unfold Obligations.DecoderAcceptsExactlyTheNineForms
  intro v
  refine ⟨decode_eq_ok_iff_toNat rfl, decode_eq_ok_iff_toNat rfl, decode_eq_ok_iff_toNat rfl, decode_eq_ok_iff_toNat rfl,
    fun b => decode_eq_ok_iff_toNat (encode_crcByte_toNat b), decode_eq_ok_iff_toNat rfl, decode_eq_ok_iff_toNat rfl,
    decode_eq_ok_iff_toNat rfl, decode_eq_ok_iff_toNat rfl, ?_⟩
  rw [decode_toOption_eq_none_iff, ← exists_eq_encode_iff]
  simp only [decode_eq_ok_iff]

/-- A command's word, given as a number, reads back as the command (R56, R70). -/
theorem decodeTableWord_encode (i : Instr) : decodeTableWord 32 (encode i).toNat = some i := by
  have hword : tableWord 32 (encode i).toNat = encode i := by
    rw [tableWord, Nat.mod_eq_of_lt (encode i).isLt, BitVec.ofNat_toNat, BitVec.setWidth_eq]
  rw [decodeTableWord, hword, decode_encode]
  rfl

/-- Settles O3: the legal words are the encoder's (O1); the illegal ones are rejected by the test of R74 that each fails. -/
theorem sampleWordsDecode : Obligations.SampleWordsDecode := by
  unfold Obligations.SampleWordsDecode
  exact ⟨decodeTableWord_encode .nop, decodeTableWord_encode .reset, decodeTableWord_encode .inClr,
    decodeTableWord_encode .crcInit, decodeTableWord_encode (.crcByte 0x31), decodeTableWord_encode (.crcByte 0xFF),
    decodeTableWord_encode .crcFin, decodeTableWord_encode .crc32, decodeTableWord_encode .chunk,
    decodeTableWord_encode .encode, by decide⟩

end Sys2Proof
end

section
/-! PROOFS. The fields of a chunk that stands inside a longer sequence, and the three chunks of a file (rules R78, R111, R143). -/

namespace Sys2Proof.Machine

/-- A piece of a list, by its offset and its length. -/
theorem take_drop_of_eq_append {α : Type} {l pre mid post : List α} {k n : Nat} (h : l = pre ++ (mid ++ post))
    (hk : pre.length = k) (hn : mid.length = n) : (l.drop k).take n = mid := by
  rw [h, List.drop_left' hk, List.take_left' hn]

/-- The chunk of tag `t` and payload `p` stands in `l` at offset `k`. -/
def ChunkAt (l : List Byte) (k : Nat) (t p : List Byte) : Prop :=
  ∃ pre post : List Byte, l = pre ++ (frame t p ++ post) ∧ pre.length = k ∧ t.length = 4

namespace ChunkAt

variable {l t p : List Byte} {k : Nat}

theorem length_field (h : ChunkAt l k t p) : (l.drop k).take 4 = be32 (BitVec.ofNat 32 p.length) := by
  obtain ⟨pre, post, rfl, hk, _⟩ := h
  exact take_drop_of_eq_append (post := t ++ p ++ be32 (crc32 (t ++ p)) ++ post) (by simp [frame]) hk rfl

theorem tag_field (h : ChunkAt l k t p) : (l.drop (k + 4)).take 4 = t := by
  obtain ⟨pre, post, rfl, hk, ht⟩ := h
  exact take_drop_of_eq_append (pre := pre ++ be32 (BitVec.ofNat 32 p.length)) (post := p ++ be32 (crc32 (t ++ p)) ++ post)
    (by simp [frame]) (by simp [hk]) ht

theorem payload (h : ChunkAt l k t p) : (l.drop (k + 8)).take p.length = p := by
  obtain ⟨pre, post, rfl, hk, ht⟩ := h
  exact take_drop_of_eq_append (pre := pre ++ be32 (BitVec.ofNat 32 p.length) ++ t) (post := be32 (crc32 (t ++ p)) ++ post)
    (by simp [frame]) (by simp [hk, ht]) rfl

/-- What a chunk's checksum is over: the tag and the payload, `4 + |p|` bytes. -/
theorem tag_payload (h : ChunkAt l k t p) : (l.drop (k + 4)).take (4 + p.length) = t ++ p := by
  obtain ⟨pre, post, rfl, hk, ht⟩ := h
  exact take_drop_of_eq_append (pre := pre ++ be32 (BitVec.ofNat 32 p.length)) (post := be32 (crc32 (t ++ p)) ++ post)
    (by simp [frame]) (by simp [hk]) (by simp [ht])

theorem crc_field (h : ChunkAt l k t p) : (l.drop (k + 8 + p.length)).take 4 = be32 (crc32 (t ++ p)) := by
  obtain ⟨pre, post, rfl, hk, ht⟩ := h
  exact take_drop_of_eq_append (pre := pre ++ be32 (BitVec.ofNat 32 p.length) ++ t ++ p) (post := post)
    (by simp [frame]) (by simp [hk, ht]; omega) rfl

/-- The checksum field is the checksum of the bytes of `l` it is over. -/
theorem crc_field_eq (h : ChunkAt l k t p) :
    (l.drop (k + 8 + p.length)).take 4 = be32 (crc32 ((l.drop (k + 4)).take (4 + p.length))) := by
  rw [h.crc_field, h.tag_payload]

/-- A piece of the payload, by its offset in the payload. -/
theorem payload_piece (h : ChunkAt l k t p) {i n : Nat} (hi : i + n ≤ p.length) :
    (l.drop (k + 8 + i)).take n = (p.drop i).take n := by
  calc (l.drop (k + 8 + i)).take n
    _ = (((l.drop (k + 8)).take p.length).drop i).take n := by
      rw [List.drop_take, List.drop_drop, List.take_take, Nat.min_eq_left (by omega)]
    _ = (p.drop i).take n := by rw [h.payload]

theorem payload_getElem? (h : ChunkAt l k t p) {i : Nat} (hi : i < p.length) : l[k + 8 + i]? = p[i]? := by
  rw [← List.getElem?_drop, ← List.getElem?_take_of_lt hi, h.payload]

end ChunkAt

/-- The length field of the IHDR chunk, whose payload is 13 bytes long (R78, R141). -/
theorem be32_ihdr_length (w h : Word) : be32 (BitVec.ofNat 32 (ihdr w h).length) = [0x00, 0x00, 0x00, 0x0D] := by
  have hlen : (ihdr w h).length = 13 := rfl
  rw [hlen]
  decide

theorem png_sig (w h : Word) (c : List Byte) : (png w h c).take 8 = pngSig := rfl

theorem png_ihdr (w h : Word) (c : List Byte) : ChunkAt (png w h c) 8 tagIHDR (ihdr w h) :=
  ⟨pngSig, frame tagIDAT c ++ frame tagIEND [], by simp only [png, List.append_assoc], rfl, rfl⟩

theorem png_idat (w h : Word) (c : List Byte) : ChunkAt (png w h c) 33 tagIDAT c :=
  ⟨pngSig ++ frame tagIHDR (ihdr w h), frame tagIEND [], by simp only [png, List.append_assoc], rfl, rfl⟩

theorem png_iend (w h : Word) (c : List Byte) : ChunkAt (png w h c) (45 + c.length) tagIEND [] := by
  refine ⟨pngSig ++ frame tagIHDR (ihdr w h) ++ frame tagIDAT c, [], by simp only [png, List.append_nil], ?_, rfl⟩
  rw [List.length_append, frame_length rfl]
  exact (Nat.add_assoc 33 12 c.length).symm

/-- The checksum of the empty IEND chunk (R78, R144). -/
theorem crc32_tagIEND : crc32 tagIEND = 0xAE426082 := by decide +kernel

/-- A file ends with the checksum of its IEND chunk (R78). -/
theorem png_last (w h : Word) (c : List Byte) : (png w h c).drop (53 + c.length) = [0xAE, 0x42, 0x60, 0x82] := by
  have hlen : ((png w h c).drop (53 + c.length)).length ≤ 4 := by
    rw [List.length_drop, png_length]
    omega
  have hoff : 53 + c.length = 45 + c.length + 8 := by omega
  have hcrc := (png_iend w h c).crc_field
  rw [List.append_nil, crc32_tagIEND] at hcrc
  rw [← List.take_of_length_le hlen, hoff]
  exact hcrc

/-- Settles O41: the rows are the signature and the fields of the three chunks. -/
theorem pngLayoutByOffset : Obligations.PngLayoutByOffset := by
  unfold Obligations.PngLayoutByOffset
  rintro w h c _ - rfl
  have head := png_ihdr w h c
  have data := png_idat w h c
  have tail := png_iend w h c
  have dims {i n : Nat} (hi : i + n ≤ 13) := head.payload_piece hi
  have byte {i : Nat} (hi : i < 13) := head.payload_getElem? hi
  have hiendTag : 49 + c.length = 45 + c.length + 4 := by omega
  refine ⟨png_sig w h c, head.length_field.trans (be32_ihdr_length w h), head.tag_field, dims (i := 0) (n := 4) (by decide),
    dims (i := 4) (by decide), byte (i := 8) (by decide), byte (i := 9) (by decide), byte (i := 10) (by decide),
    byte (i := 11) (by decide), byte (i := 12) (by decide), head.crc_field_eq, data.length_field, data.tag_field,
    data.payload, data.crc_field_eq, tail.length_field, ?_, png_last w h c, png_length w h c⟩
  rw [hiendTag]
  exact tail.tag_field

end Sys2Proof.Machine
end

section
/-! PROOFS. Runs of a program line by line: what `LOAD`, `SETTAG`, `SETDIM` and a command do to a clear block (rules R79, R80, R165,
R166). -/

namespace Sys2Proof.Machine

theorem runActions_cons {a : HostAction} {s t : State} (h : hostAct a s = .next t) (as : List HostAction) :
    runActions (a :: as) s = runActions as t := by
  rw [runActions, h]

/-- The first line of a program runs, then the others from where it ends. -/
theorem runActions_assemble_cons {l : AsmLine} {s t : State} (h : runActions l.actions s = .next t) (ls : List AsmLine) :
    runActions (assemble (l :: ls)) s = runActions (assemble ls) t := by
  rw [assemble, List.flatMap_cons]
  exact runActions_append _ _ h

/-- Writing a command's word runs the command (R79, R166). -/
theorem hostAct_commandAction (i : Instr) (s : State) : hostAct (commandAction i) s = exec i s :=
  (hostAct_writeCmd ..).trans (writeCmd_of_ok (decode_encode i) s)

theorem runActions_command {i : Instr} {s t : State} (h : exec i s = .next t) :
    runActions (AsmLine.command i).actions s = .next t :=
  runActions_cons ((hostAct_commandAction i s).trans h) []

/-- A program's last line, a command, is that command on the state the program leaves before it. -/
theorem runActions_assemble_command (i : Instr) (s : State) : runActions (assemble [.command i]) s = exec i s := by
  obtain ⟨t, h⟩ := exec_completes i s
  rw [runActions_assemble_cons (runActions_command h), h]
  rfl

/-- A push of a byte widened to a word pushes that byte (R57, R165). -/
theorem hostAct_pushAction_of_clear {s : State} (hf : s.fault = false) (b : Byte) :
    hostAct (pushAction (b.setWidth 32)) s = .next (pushByte Config.ibufCap s b) := by
  have hb : pushedByte (b.setWidth 32) = b :=
    (BitVec.extractLsb'_setWidth_of_le (by decide)).trans BitVec.extractLsb'_eq_self
  exact (hostAct_push ..).trans (by rw [unlessFaulted_of_clear hf, hb])

/-- A faulted block ignores a push (R168, R184). -/
theorem hostAct_pushAction_of_fault {s : State} (hf : s.fault = true) (v : Word) : hostAct (pushAction v) s = .next s :=
  (hostAct_push ..).trans (congrArg _ (unlessFaulted_of_fault hf _))

/-- The pushes of a list of bytes (R80). -/
def pushes (bs : List Byte) : List HostAction := bs.map fun b => pushAction (b.setWidth 32)

theorem runActions_pushes_of_fault {s : State} (hf : s.fault = true) (bs : List Byte) : runActions (pushes bs) s = .next s := by
  induction bs with
  | nil => rfl
  | cons b bs ih => exact (runActions_cons (hostAct_pushAction_of_fault hf _) _).trans ih

/-- Bytes that fit are appended in order (R165). -/
theorem runActions_pushes_of_fits {s : State} {bs : List Byte} (hf : s.fault = false)
    (hfit : s.ibuf.length + bs.length ≤ Config.ibufCap) : runActions (pushes bs) s = .next (s.setIbuf (s.ibuf ++ bs)) := by
  induction bs generalizing s with
  | nil => rw [List.append_nil]; rfl
  | cons b bs ih =>
    rw [List.length_cons] at hfit
    have hpush : hostAct (pushAction (b.setWidth 32)) s = .next (s.setIbuf (s.ibuf ++ [b])) :=
      (hostAct_pushAction_of_clear hf b).trans (congrArg _ (if_neg (by omega)))
    have hrest := ih (s := s.setIbuf (s.ibuf ++ [b])) hf (by simp; omega)
    rw [State.setIbuf_ibuf, List.append_assoc] at hrest
    exact (runActions_cons hpush _).trans hrest

/-- The block stands faulted with InputOverflow in `t`, and has emitted nothing since `s`. -/
def Overflowed (s t : State) : Prop := t.fault = true ∧ t.cause = .inputOverflow ∧ t.out = s.out

/-- Bytes that do not fit end in InputOverflow: the first one too many raises it, the others are ignored (R165, R184). -/
theorem runActions_pushes_of_overflow {s : State} {bs : List Byte} (hf : s.fault = false)
    (hle : s.ibuf.length ≤ Config.ibufCap) (hover : Config.ibufCap < s.ibuf.length + bs.length) :
    ∃ t, runActions (pushes bs) s = .next t ∧ Overflowed s t := by
  induction bs generalizing s with
  | nil => exact absurd hover (Nat.not_lt.2 hle)
  | cons b bs ih =>
    rw [List.length_cons] at hover
    have hpush := hostAct_pushAction_of_clear hf b
    obtain ⟨_, e⟩ | ⟨hne, e⟩ := pushByte_cases Config.ibufCap s b <;> rw [e] at hpush
    · exact ⟨_, (runActions_cons hpush _).trans (runActions_pushes_of_fault rfl bs), rfl, rfl, rfl⟩
    · obtain ⟨t, ht, ho⟩ := ih (s := s.setIbuf (s.ibuf ++ [b])) hf (by simp; omega) (by simp; omega)
      exact ⟨t, (runActions_cons hpush _).trans ht, ho⟩

/-- `LOAD` empties a clear block's buffer and pushes its bytes (R80, R162). -/
theorem runActions_load_of_clear {s : State} (hf : s.fault = false) (bs : List Byte) :
    runActions (AsmLine.load bs).actions s = runActions (pushes bs) (s.setIbuf []) :=
  runActions_cons ((hostAct_commandAction .inClr s).trans (exec_of_clear hf (by decide))) _

theorem runActions_load_of_fits {s : State} {bs : List Byte} (hf : s.fault = false) (hfit : bs.length ≤ Config.ibufCap) :
    runActions (AsmLine.load bs).actions s = .next (s.setIbuf bs) :=
  (runActions_load_of_clear hf bs).trans (runActions_pushes_of_fits (s := s.setIbuf []) hf (by simpa using hfit))

theorem runActions_load_of_overflow {s : State} {bs : List Byte} (hf : s.fault = false) (hover : Config.ibufCap < bs.length) :
    ∃ t, runActions (AsmLine.load bs).actions s = .next t ∧ Overflowed s t := by
  rw [runActions_load_of_clear hf]
  exact runActions_pushes_of_overflow (s := s.setIbuf []) hf (Nat.zero_le _) (by simpa using hover)

theorem runActions_setTag_of_clear {s : State} (hf : s.fault = false) (a b c d : Byte) :
    runActions (AsmLine.setTag a b c d).actions s = .next (s.setTag (a ++ b ++ c ++ d)) :=
  runActions_cons ((hostAct_writeTag ..).trans (congrArg _ (unlessFaulted_of_clear hf _))) []

theorem runActions_setDim_of_clear {s : State} (hf : s.fault = false) (w h : Word) :
    runActions (AsmLine.setDim w h).actions s = .next ((s.setWidth w).setHeight h) := by
  have hw : hostAct (.regWrite .word 0x24 w) s = .next (s.setWidth w) :=
    (hostAct_writeWidth ..).trans (congrArg _ (unlessFaulted_of_clear hf _))
  have hh : hostAct (.regWrite .word 0x28 h) (s.setWidth w) = .next ((s.setWidth w).setHeight h) :=
    (hostAct_writeHeight ..).trans (congrArg _ (unlessFaulted_of_clear (s := s.setWidth w) hf _))
  exact (runActions_cons hw _).trans (runActions_cons hh [])

/-- A tag of four bytes goes out as those bytes (R26, R57, R80). -/
theorem be32_append (a b c d : Byte) : be32 (a ++ b ++ c ++ d) = [a, b, c, d] := by
  have ha : (a ++ b ++ c ++ d).extractLsb' 24 8 = a := by
    rw [BitVec.extractLsb'_append_eq_of_le (by decide), BitVec.extractLsb'_append_eq_of_le (by decide),
      BitVec.extractLsb'_append_eq_left]
  have hb : (a ++ b ++ c ++ d).extractLsb' 16 8 = b := by
    rw [BitVec.extractLsb'_append_eq_of_le (by decide), BitVec.extractLsb'_append_eq_of_le (by decide),
      BitVec.extractLsb'_append_eq_right]
  have hc : (a ++ b ++ c ++ d).extractLsb' 8 8 = c := by
    rw [BitVec.extractLsb'_append_eq_of_le (by decide), BitVec.extractLsb'_append_eq_right]
  have hd : (a ++ b ++ c ++ d).extractLsb' 0 8 = d := BitVec.extractLsb'_append_eq_right
  exact congrArg₂ _ ha (congrArg₂ _ hb (congrArg₂ _ hc (congrArg₂ _ hd rfl)))

end Sys2Proof.Machine
end

section
/-! PROOFS. The two programs of the host's protocol, from the lines' rules (rule R205). -/

namespace Sys2Proof.Machine

/-- Tag, payload and a command: the command meets both in the block (R205). -/
theorem runActions_setTag_load_command {s : State} {p : List Byte} (hf : s.fault = false) (hfit : p.length ≤ Config.ibufCap)
    (a b c d : Byte) (i : Instr) :
    runActions (assemble [.setTag a b c d, .load p, .command i]) s = exec i ((s.setTag (a ++ b ++ c ++ d)).setIbuf p) := by
  have hload := runActions_load_of_fits (s := s.setTag (a ++ b ++ c ++ d)) hf hfit
  rw [runActions_assemble_cons (runActions_setTag_of_clear hf a b c d), runActions_assemble_cons hload,
    runActions_assemble_command]

/-- Settles O58: the tag and the payload are in the block when `CHUNK` runs, and the payload is short enough for its length field. -/
theorem setupThenChunkGivesTheChunk : Obligations.SetupThenChunkGivesTheChunk := by
  unfold Obligations.SetupThenChunkGivesTheChunk
  intro s a b c d p hf hfit
  have htag : be32 (a ++ b ++ c ++ d) = [a, b, c, d] := be32_append a b c d
  have hlen : ((s.setTag (a ++ b ++ c ++ d)).setIbuf p).ibuf.length < 2 ^ 32 := hfit.trans_lt ibufCap_lt
  have hclear : ((s.setTag (a ++ b ++ c ++ d)).setIbuf p).fault = false := hf
  rw [runActions_setTag_load_command hf hfit, exec_chunk_of_clear hclear, chunkBuffer_of_fits hlen]
  exact ⟨_, rfl, by simp [tagBytes, htag], hf, rfl, htag, hf⟩

/-- A reset and the dimensions, before the rest of a program (R80). -/
theorem runActions_hreset_setDim (s : State) (w h : Word) (ls : List AsmLine) :
    runActions (assemble (.hreset :: .setDim w h :: ls)) s =
      runActions (assemble ls) ((s.toReset.setWidth w).setHeight h) := by
  have hreset : runActions AsmLine.hreset.actions s = .next s.toReset := rfl
  rw [runActions_assemble_cons hreset, runActions_assemble_cons (runActions_setDim_of_clear rfl w h)]

/-- Dimensions and pixels that fit, after a reset, and a command: the command meets them in the block (R205). -/
theorem runActions_hreset_setDim_load_command {pix : List Byte} (hfit : pix.length ≤ Config.ibufCap) (s : State) (w h : Word)
    (i : Instr) :
    runActions (assemble [.hreset, .setDim w h, .load pix, .command i]) s =
      exec i (((s.toReset.setWidth w).setHeight h).setIbuf pix) := by
  have hload := runActions_load_of_fits (s := (s.toReset.setWidth w).setHeight h) rfl hfit
  rw [runActions_hreset_setDim, runActions_assemble_cons hload, runActions_assemble_command]

/-- Pixels that do not fit overflow, and the faulted block ignores the command (R165, R184). -/
theorem runActions_hreset_setDim_load_of_overflow {pix : List Byte} (hover : Config.ibufCap < pix.length) (s : State)
    (w h : Word) {i : Instr} (hi : i ≠ .reset) :
    ∃ t, runActions (assemble [.hreset, .setDim w h, .load pix, .command i]) s = .next t ∧ Overflowed s t := by
  obtain ⟨t, hload, hf, hc, ho⟩ := runActions_load_of_overflow (s := (s.toReset.setWidth w).setHeight h) rfl hover
  refine ⟨t, ?_, hf, hc, ho⟩
  rw [runActions_hreset_setDim, runActions_assemble_cons hload, runActions_assemble_command, exec_of_fault hf hi]

/-- Settles O59: pixels that do not fit overflow; others are in the block when `ENCODE` runs, which then passes its two size tests and
asks the unit. -/
theorem setupThenEncodeGivesTheFile : Obligations.SetupThenEncodeGivesTheFile := by
  unfold Obligations.SetupThenEncodeGivesTheFile
  intro s w h pix hw hh hpix
  by_cases hfit : pix.length ≤ Config.ibufCap
  · have hdraw : (((s.toReset.setWidth w).setHeight h).setIbuf pix).nextDraw = s.nextDraw := rfl
    rw [runActions_hreset_setDim_load_command hfit, exec_encode_of_clear rfl]
    refine ⟨_, rfl, ?_⟩
    obtain ⟨hz, _⟩ | ⟨_, _, ⟨hne, _⟩ | ⟨_, ⟨e, hd, he⟩ | ⟨_, hc, he⟩ | ⟨_, _, he⟩⟩⟩ :=
      encodeImage_cases Config.codec (((s.toReset.setWidth w).setHeight h).setIbuf pix)
    · exact absurd hz (not_or.2 ⟨hw, hh⟩)
    · exact absurd hpix hne
    · rw [he]
      exact .inr ⟨rfl, rfl, .inr (.inl ⟨rfl, hfit, by rw [← hdraw, hd]; exact nofun⟩)⟩
    · rw [he]
      exact .inr ⟨rfl, rfl, .inr (.inr ⟨rfl, hfit, hc⟩)⟩
    · rw [he]
      exact .inl ⟨rfl, hfit, rfl⟩
  · have hover : Config.ibufCap < pix.length := Nat.not_le.1 hfit
    obtain ⟨t, ht, hf, hc, ho⟩ := runActions_hreset_setDim_load_of_overflow hover s w h (i := .encode) (by decide)
    exact ⟨t, ht, .inr ⟨hf, ho, .inl ⟨hc, hover⟩⟩⟩

end Sys2Proof.Machine
end

section
/-! PROOFS. The engine's functions: one shift on numbers, its linearity and the table form, the accumulation in pieces, known checksums
(rules R90 to R96). -/

namespace Sys2Proof.Machine

/-- A shift that drops a one feeds the polynomial back (R91). -/
theorem crcBit_of_lsb {c : Word} (h : c.getLsbD 0 = true) : crcBit c = (c >>> 1) ^^^ crcPoly := if_pos h

/-- A shift that drops a zero has no feedback (R91). -/
theorem crcBit_of_not_lsb {c : Word} (h : c.getLsbD 0 = false) : crcBit c = c >>> 1 := if_neg (Bool.eq_false_iff.1 h)

/-- The bit the shift drops is the number's parity. -/
theorem getLsbD_zero_eq (c : Word) : c.getLsbD 0 = decide (c.toNat % 2 = 1) := by
  rw [BitVec.getLsbD, Nat.testBit_zero]

/-- Settles O17: the dropped bit is the parity, and what is left is the half. -/
theorem crcBitHalvesAndXors : Obligations.CrcBitHalvesAndXors := by
  unfold Obligations.CrcBitHalvesAndXors
  have half (c : Word) : (c >>> 1).toNat = c.toNat / 2 := BitVec.toNat_ushiftRight ..
  refine fun c => ⟨fun hodd => ?_, fun heven => ?_⟩
  · rw [crcBit_of_lsb (by rw [getLsbD_zero_eq, decide_eq_true hodd]), BitVec.toNat_xor, half]
    rfl
  · rw [crcBit_of_not_lsb (by rw [getLsbD_zero_eq, heven]; rfl), half]

/-- The shift is linear: feedback from both summands cancels (R91). -/
theorem crcBit_xor (x y : Word) : crcBit (x ^^^ y) = crcBit x ^^^ crcBit y := by
  have hshift : (x ^^^ y) >>> 1 = (x >>> 1) ^^^ (y >>> 1) := BitVec.ushiftRight_xor_distrib ..
  have hlsb : (x ^^^ y).getLsbD 0 = (x.getLsbD 0 ^^ y.getLsbD 0) := BitVec.getLsbD_xor
  cases hx : x.getLsbD 0 <;> cases hy : y.getLsbD 0 <;> rw [hx, hy] at hlsb
  · rw [crcBit_of_not_lsb hlsb, crcBit_of_not_lsb hx, crcBit_of_not_lsb hy, hshift]
  · rw [crcBit_of_lsb hlsb, crcBit_of_not_lsb hx, crcBit_of_lsb hy, hshift, BitVec.xor_assoc]
  · rw [crcBit_of_lsb hlsb, crcBit_of_lsb hx, crcBit_of_not_lsb hy, hshift]
    ac_rfl
  · rw [crcBit_of_not_lsb hlsb, crcBit_of_lsb hx, crcBit_of_lsb hy, hshift]
    calc (x >>> 1) ^^^ (y >>> 1)
      _ = (x >>> 1) ^^^ (y >>> 1) ^^^ (crcPoly ^^^ crcPoly) := by rw [BitVec.xor_self, BitVec.xor_zero]
      _ = (x >>> 1) ^^^ crcPoly ^^^ ((y >>> 1) ^^^ crcPoly) := by ac_rfl

/-- Eight shifts written out are the shift repeated (R92, R96). -/
theorem crcShift8_eq_repeat (c : Word) : crcShift8 c = Nat.repeat crcBit 8 c := rfl

theorem crcShift8_xor (x y : Word) : crcShift8 (x ^^^ y) = crcShift8 x ^^^ crcShift8 y := by
  simp only [crcShift8, crcBit_xor]

/-- As many shifts as there are zeros at the low end have no feedback (R96). -/
theorem repeat_crcBit_of_low_zero {c : Word} {n : Nat} (h : ∀ i < n, c.getLsbD i = false) :
    Nat.repeat crcBit n c = c >>> n := by
  induction n with
  | zero => exact (BitVec.ushiftRight_zero _).symm
  | succ n ih =>
    have hlsb : (c >>> n).getLsbD 0 = false := (BitVec.getLsbD_ushiftRight ..).trans (h n (Nat.lt_succ_self n))
    calc crcBit (Nat.repeat crcBit n c)
      _ = crcBit (c >>> n) := by rw [ih fun i hi => h i (Nat.lt_succ_of_lt hi)]
      _ = c >>> n >>> 1 := crcBit_of_not_lsb hlsb
      _ = c >>> (n + 1) := (BitVec.shiftRight_add ..).symm

/-- The register with a byte in is its low byte, and the register's own upper three bytes (R96). -/
theorem xor_byte_eq_split (c : Word) (b : Byte) :
    c ^^^ b.setWidth 32 = ((c ^^^ b.setWidth 32).extractLsb' 0 8).setWidth 32 ^^^ ((c >>> 8) <<< 8) := by
  ext i hi
  by_cases hlow : i < 8
  · simp [hlow, hi]
  · have hbyte : b.getLsbD i = false := BitVec.getLsbD_of_ge b i (Nat.not_lt.1 hlow)
    have hi8 : 8 + (i - 8) = i := Nat.add_sub_cancel' (Nat.not_lt.1 hlow)
    simp [hlow, hbyte, hi8, BitVec.getLsbD_eq_getElem hi]

/-- The upper three bytes pass through eight shifts with no feedback (R96). -/
theorem crcShift8_upper (c : Word) : crcShift8 ((c >>> 8) <<< 8) = c >>> 8 := by
  have hzero : ∀ i < 8, ((c >>> 8) <<< 8).getLsbD i = false := fun i hi => by simp [hi]
  rw [crcShift8_eq_repeat, repeat_crcBit_of_low_zero hzero]
  ext i hi
  simpa using BitVec.lt_of_getLsbD

/-- The table form of the byte step (R96). -/
theorem crcByte_eq_table (c : Word) (b : Byte) : crcByte c b = crcByteTable c b := by
  calc crcByte c b
    _ = crcShift8 (((c ^^^ b.setWidth 32).extractLsb' 0 8).setWidth 32 ^^^ ((c >>> 8) <<< 8)) := by
      rw [← xor_byte_eq_split, crcByte]
    _ = crcByteTable c b := by rw [crcShift8_xor, crcShift8_upper, crcByteTable, crcTable]

/-- Settles O18: the shifts are linear, so the low byte goes by the table and the upper three by a plain shift. -/
theorem crcTableFormAgrees : Obligations.CrcTableFormAgrees := by
  unfold Obligations.CrcTableFormAgrees
  exact ⟨crcByte_eq_table, fun n => crcShift8_eq_repeat _, by decide, by decide, by decide, by decide⟩

/-- A message may be fed in pieces (R93). -/
theorem crcAcc_append (c : Word) (s t : List Byte) : crcAcc c (s ++ t) = crcAcc (crcAcc c s) t := by
  induction s generalizing c with
  | nil => rfl
  | cons b s ih => exact ih (crcByte c b)

/-- Settles O19: two equations of the definition, and the law of pieces. -/
theorem crcAccumulatesInPieces : Obligations.CrcAccumulatesInPieces := by
  unfold Obligations.CrcAccumulatesInPieces
  exact ⟨fun _ => rfl, fun _ _ _ => rfl, crcAcc_append⟩

/-- Settles O20: each value is computed by the engine's definition. -/
theorem crcKnownValues : Obligations.CrcKnownValues := by
  unfold Obligations.CrcKnownValues
  exact ⟨by decide, by decide, by decide, by decide, by decide, crc32_tagIEND, by decide +kernel⟩

end Sys2Proof.Machine
end

section
/-! PROOFS. The four commands of the engine, and the two programs for a checksum (rules R97 to R101). -/

namespace Sys2Proof.Machine

/-- The word of `CRC.BYTE` by its operand (R72, R98). -/
theorem encode_crcByte_eq (b : Byte) : encode (.crcByte b) = 0x11000000 + b.setWidth 32 := by
  have hb : b.toNat < 256 := b.isLt
  apply BitVec.eq_of_toNat_eq
  rw [encode_crcByte_toNat, BitVec.toNat_add, BitVec.toNat_setWidth]
  simp only [BitVec.ofNat_eq_ofNat, BitVec.toNat_ofNat]
  omega

/-- A word of the opcode of `CRC.BYTE` with a bit of 23:8 set is illegal (R75, R98). -/
theorem decode_crcByte_strayBits {v : Word} (hop : v.toNat / 2 ^ 24 = 0x11) (hzero : v.toNat / 2 ^ 8 % 2 ^ 16 ≠ 0) :
    (decode v).toOption = none := by
  have hlegal : ¬ ∃ i, v = encode i := by
    rw [exists_eq_encode_iff]
    simp only [List.mem_cons, List.not_mem_nil, or_false]
    omega
  rw [decode_toOption_eq_none_iff]
  simpa only [decode_eq_ok_iff] using hlegal

/-! What each command of the engine does on a clear block (R97 to R100). -/

theorem exec_crcInit_of_clear {s : State} (h : s.fault = false) : exec .crcInit s = .next (s.setCrc crcStart) :=
  exec_of_clear h (by decide)

theorem exec_crcByte_of_clear {s : State} (h : s.fault = false) (b : Byte) :
    exec (.crcByte b) s = .next (s.setCrc (crcByte s.crc b)) :=
  exec_of_clear (i := .crcByte b) h nofun

theorem exec_crcFin_of_clear {s : State} (h : s.fault = false) : exec .crcFin s = .next (s.setResult (~~~ s.crc)) :=
  exec_of_clear h (by decide)

theorem exec_crc32_of_clear {s : State} (h : s.fault = false) : exec .crc32 s = .next (s.checksum s.ibuf) :=
  exec_of_clear h (by decide)

/-- Settles O21: the start value is written whatever `CRC` held. -/
theorem crcInitStartsAChecksum : Obligations.CrcInitStartsAChecksum := by
  unfold Obligations.CrcInitStartsAChecksum
  exact ⟨decode_encode .crcInit, fun s hf => ⟨exec_crcInit_of_clear hf, exec_crcInit_of_clear (s := s.setCrc crcStart) hf⟩⟩

/-- Settles O22: the words are the encoder's (O1, O2), and the byte step is eight shifts. -/
theorem crcByteFeedsOneByte : Obligations.CrcByteFeedsOneByte := by
  unfold Obligations.CrcByteFeedsOneByte
  exact ⟨fun b => decode_eq_ok_iff.2 (encode_crcByte_eq b).symm, fun _ => decode_crcByte_strayBits,
    fun _ b hf => exec_crcByte_of_clear hf b, by decide, by decide⟩

/-- Settles O23: the complement is the xor with all ones, and `CRC` is kept, so a second `CRC.FIN` gives the same. -/
theorem crcFinComplementsIntoResult : Obligations.CrcFinComplementsIntoResult := by
  unfold Obligations.CrcFinComplementsIntoResult
  refine ⟨decode_encode .crcFin, fun s hf => ?_⟩
  have hnot : s.crc ^^^ 0xFFFFFFFF = ~~~ s.crc := BitVec.xor_allOnes
  rw [hnot]
  refine ⟨exec_crcFin_of_clear hf, exec_crcFin_of_clear (s := s.setResult (~~~ s.crc)) hf, fun hcrc => ?_⟩
  have hzero : ~~~ s.crc = 0 := by rw [hcrc]; decide
  rw [exec_crcFin_of_clear hf, hzero]
  rfl

/-- `CRC32` on a buffer whose accumulation, and its complement, are known (R100). -/
theorem exec_crc32_of_value {s : State} {c r : Word} (h : s.fault = false) (hc : crcAcc crcStart s.ibuf = c) (hr : ~~~ c = r) :
    exec .crc32 s = .next ((s.setCrc c).setResult r) := by
  subst hc hr
  exact exec_crc32_of_clear h

/-- The accumulation of IEND, of which its checksum is the complement (R94, R100). -/
theorem crcAcc_tagIEND : crcAcc crcStart tagIEND = 0x51BD9F7D := by
  calc crcAcc crcStart tagIEND
    _ = ~~~ crc32 tagIEND := BitVec.not_not.symm
    _ = 0x51BD9F7D := by rw [crc32_tagIEND]; decide

/-- Settles O24: one checksum over the buffer, with its value for an empty buffer and for the bytes of IEND. -/
theorem crc32ChecksumsTheBuffer : Obligations.Crc32ChecksumsTheBuffer := by
  unfold Obligations.Crc32ChecksumsTheBuffer
  exact ⟨decode_encode .crc32, fun s hf => exec_crc32_of_clear hf,
    fun s hf hbuf => exec_crc32_of_value (c := 0xFFFFFFFF) (r := 0) hf (congrArg _ hbuf) (by decide),
    fun s hf hbuf => exec_crc32_of_value (r := 0xAE426082) hf ((congrArg _ hbuf).trans crcAcc_tagIEND) (by decide)⟩

/-- `CRC.STR` accumulates its bytes in order (R80, R93, R98). -/
theorem runActions_crcStr_of_clear {s : State} (hf : s.fault = false) (bs : List Byte) :
    runActions (AsmLine.crcStr bs).actions s = .next (s.setCrc (crcAcc s.crc bs)) := by
  induction bs generalizing s with
  | nil => rfl
  | cons b bs ih =>
    have hbyte := (hostAct_commandAction (.crcByte b) s).trans (exec_crcByte_of_clear hf b)
    exact (runActions_cons hbyte _).trans (ih (s := s.setCrc (crcByte s.crc b)) hf)

/-- The byte by byte program leaves the engine as one checksum does (R101). -/
theorem runActions_crcInit_crcStr_crcFin {s : State} (hf : s.fault = false) (bs : List Byte) :
    runActions (assemble [.command .crcInit, .crcStr bs, .command .crcFin]) s = .next (s.checksum bs) := by
  have hstr := runActions_crcStr_of_clear (s := s.setCrc crcStart) hf bs
  rw [runActions_assemble_cons (runActions_command (exec_crcInit_of_clear hf)), runActions_assemble_cons hstr,
    runActions_assemble_command]
  exact exec_crcFin_of_clear hf

/-- The buffered program leaves the engine as one checksum does, and the bytes in the buffer (R101). -/
theorem runActions_load_crc32 {s : State} (hf : s.fault = false) {bs : List Byte} (hfit : bs.length ≤ Config.ibufCap) :
    runActions (assemble [.load bs, .command .crc32]) s = .next ((s.setIbuf bs).checksum bs) := by
  rw [runActions_assemble_cons (runActions_load_of_fits hf hfit), runActions_assemble_command]
  exact exec_crc32_of_clear (s := s.setIbuf bs) hf

/-- Settles O25: both programs end in `State.checksum` over the sequence. -/
theorem bytewiseAndBufferedChecksumsAgree : Obligations.BytewiseAndBufferedChecksumsAgree := by
  unfold Obligations.BytewiseAndBufferedChecksumsAgree
  exact fun _ bs hf hfit => ⟨runActions_crcInit_crcStr_crcFin hf bs, runActions_load_crc32 hf hfit⟩

end Sys2Proof.Machine
end

section
/-! PROOFS. The chunk's format, and the way back from a chunk and from a sequence of chunks to tags and payloads (rules R111, R113). -/

namespace Sys2Proof.Machine

theorem chunk_of_fits {p : List Byte} (h : p.length < 2 ^ 32) (t : List Byte) : chunk t p = some (frame t p) := if_pos h

theorem chunk_of_long {p : List Byte} (h : 2 ^ 32 ≤ p.length) (t : List Byte) : chunk t p = none := if_neg (Nat.not_lt.2 h)

/-- A chunk stands at the head of itself and of whatever follows it. -/
theorem chunkAt_frame_append {t : List Byte} (ht : t.length = 4) (p rest : List Byte) :
    ChunkAt (frame t p ++ rest) 0 t p :=
  ⟨[], rest, rfl, rfl, ht⟩

theorem chunkAt_frame {t : List Byte} (ht : t.length = 4) (p : List Byte) : ChunkAt (frame t p) 0 t p := by
  simpa using chunkAt_frame_append ht p []

/-- Past its payload a chunk holds nothing but its checksum (R111). -/
theorem frame_drop_payload {t : List Byte} (ht : t.length = 4) (p : List Byte) :
    (frame t p).drop (8 + p.length) = be32 (crc32 (t ++ p)) :=
  List.drop_left' (by simp [ht]; omega)

/-- `CHUNK` on a clear block whose buffer is too long for the length field (R111; log entry 15). -/
theorem exec_chunk_of_long {s : State} (hf : s.fault = false) (hl : 2 ^ 32 ≤ s.ibuf.length) :
    exec .chunk s = .next s.raisePayloadOverflow := by
  rw [exec_chunk_of_clear hf, chunkBuffer_of_long hl]

/-- Settles O27: the fields are those of a chunk at offset 0, and the length check decides whether there is one. -/
theorem chunkFormatOrOverflow : Obligations.ChunkFormatOrOverflow := by
  unfold Obligations.ChunkFormatOrOverflow
  refine ⟨fun t p ht hp => ?_, fun t _ hp => chunk_of_long hp t, fun _ => exec_chunk_of_long⟩
  have h := chunkAt_frame ht p
  have hpayload : ((frame t p).drop 8).take p.length = p := h.payload
  exact ⟨frame t p, chunk_of_fits hp t, frame_length ht p, h.length_field, h.tag_field, hpayload, frame_drop_payload ht p⟩

/-! The way back (R113). -/

/-- The length field of a payload that fits, read back (R113). -/
theorem ChunkAt.readBe_length {l t p : List Byte} {k : Nat} (h : ChunkAt l k t p) (hp : p.length < 2 ^ 32) :
    readBe ((l.drop k).take 4) = p.length := by
  rw [h.length_field, readBe_be32, BitVec.toNat_ofNat, Nat.mod_eq_of_lt hp]

/-- At one place stands at most one chunk: its length field tells where its payload ends (R113). -/
theorem ChunkAt.unique {l t p t' p' : List Byte} {k : Nat} (h : ChunkAt l k t p) (h' : ChunkAt l k t' p')
    (hp : p.length < 2 ^ 32) (hp' : p'.length < 2 ^ 32) : t = t' ∧ p = p' := by
  have hlen : p.length = p'.length := (h.readBe_length hp).symm.trans (h'.readBe_length hp')
  refine ⟨h.tag_field.symm.trans h'.tag_field, h.payload.symm.trans ?_⟩
  rw [hlen]
  exact h'.payload

/-- The decoder's two tests pass on a chunk, and it answers the tag and the payload (R113). -/
theorem unchunk_frame {t p : List Byte} (ht : t.length = 4) (hp : p.length < 2 ^ 32) : unchunk (frame t p) = some (t, p) := by
  have h := chunkAt_frame ht p
  have hlen : readBe ((frame t p).take 4) = p.length := h.readBe_length hp
  have htag : ((frame t p).drop 4).take 4 = t := h.tag_field
  have hpayload : ((frame t p).drop 8).take p.length = p := h.payload
  have hcrc : readBe (((frame t p).drop (8 + p.length)).take 4) = (crc32 (t ++ p)).toNat := by
    rw [frame_drop_payload ht, List.take_of_length_le (be32_length _).le, readBe_be32]
  simp only [unchunk, hlen, htag, hpayload, hcrc, frame_length ht, and_self, if_true]

/-- A tag and a payload that make a chunk (R111). -/
def Framable (x : List Byte × List Byte) : Prop := x.1.length = 4 ∧ x.2.length < 2 ^ 32

/-- The chunks of a list of tags and payloads, one after the other (R113). -/
def frames (xs : List (List Byte × List Byte)) : List Byte := xs.flatMap fun x => frame x.1 x.2

theorem frames_cons (x : List Byte × List Byte) (xs : List (List Byte × List Byte)) :
    frames (x :: xs) = frame x.1 x.2 ++ frames xs := rfl

theorem frames_cons_ne_nil {x : List Byte × List Byte} (hx : Framable x) (xs : List (List Byte × List Byte)) :
    frames (x :: xs) ≠ [] := by
  rw [frames_cons]
  exact List.append_ne_nil_of_left_ne_nil (frame_ne_nil hx.1 x.2) _

/-- A chunk is split from what follows it in one way only (R113). -/
theorem frame_append_inj {x y : List Byte × List Byte} {r r' : List Byte} (hx : Framable x) (hy : Framable y)
    (h : frame x.1 x.2 ++ r = frame y.1 y.2 ++ r') : x = y ∧ r = r' := by
  have hat : ChunkAt (frame x.1 x.2 ++ r) 0 y.1 y.2 := h ▸ chunkAt_frame_append hy.1 y.2 r'
  obtain ⟨ht, hp⟩ := (chunkAt_frame_append hx.1 x.2 r).unique hat hx.2 hy.2
  rw [ht, hp] at h
  exact ⟨Prod.ext ht hp, List.append_cancel_left h⟩

/-- A sequence of chunks parses in one way only (R113). -/
theorem frames_inj {xs ys : List (List Byte × List Byte)} (hxs : ∀ x ∈ xs, Framable x) (hys : ∀ y ∈ ys, Framable y)
    (h : frames xs = frames ys) : xs = ys := by
  induction xs generalizing ys with
  | nil =>
    cases ys with
    | nil => rfl
    | cons y ys => exact absurd h.symm (frames_cons_ne_nil (hys y List.mem_cons_self) ys)
  | cons x xs ih =>
    obtain ⟨hx, hxs⟩ := List.forall_mem_cons.1 hxs
    cases ys with
    | nil => exact absurd h (frames_cons_ne_nil hx xs)
    | cons y ys =>
      obtain ⟨hy, hys⟩ := List.forall_mem_cons.1 hys
      rw [frames_cons, frames_cons] at h
      obtain ⟨hxy, hrest⟩ := frame_append_inj hx hy h
      rw [hxy, ih hxs hys hrest]

/-- Settles O28: the decoder's tests pass on a chunk, and by induction each chunk is split from the rest in one way only. -/
theorem chunksParseBack : Obligations.ChunksParseBack := by
  unfold Obligations.ChunksParseBack
  refine ⟨fun t p ht hp => ?_, fun _ _ => frames_inj⟩
  rw [chunk_of_fits hp, Option.bind_some, unchunk_frame ht hp]

end Sys2Proof.Machine
end

section
/-! PROOFS. The chunk framer unit byte by byte, and the command `CHUNK` (rules R112, R114). -/

namespace Sys2Proof.Machine

/-- Sending bytes that are fed to the engine appends them to the packet and accumulates them (R93, R112). -/
theorem foldl_sendFed_eq (bs : List Byte) (q : Seq) :
    bs.foldl Seq.sendFed q = { q with st := q.st.setCrc (crcAcc q.st.crc bs), pkt := q.pkt ++ bs } := by
  induction bs generalizing q with
  | nil =>
    rw [List.append_nil]
    rfl
  | cons b bs ih =>
    have hpkt : q.pkt ++ b :: bs = q.pkt ++ [b] ++ bs := List.append_cons ..
    rw [List.foldl_cons, ih, hpkt]
    rfl

/-- Past its length check the unit sends the chunk and leaves the engine as one checksum over tag and payload does (R112). -/
theorem frameBody_eq (t p : List Byte) (q : Seq) :
    frameBody t p q = { q with st := q.st.checksum (t ++ p), pkt := q.pkt ++ frame t p } := by
  have hpkt : q.pkt ++ frame t p = q.pkt ++ be32 (BitVec.ofNat 32 p.length) ++ (t ++ p) ++ be32 (crc32 (t ++ p)) := by
    simp only [frame, List.append_assoc]
  rw [frameBody, ← List.foldl_append, foldl_sendFed_eq, hpkt]
  rfl

theorem frameUnit_of_fits {p : List Byte} (h : p.length < 2 ^ 32) (t : List Byte) (q : Seq) :
    frameUnit t p q = frameBody t p q := if_neg (Nat.not_le.2 h)

theorem frameUnit_of_long {p : List Byte} (h : 2 ^ 32 ≤ p.length) (t : List Byte) (q : Seq) :
    frameUnit t p q = q.abandon q.st.raisePayloadOverflow := if_pos h

/-- Settles O29: the length check, then the bytes by induction, tag and payload as one message. -/
theorem framerUnitSendsTheChunk : Obligations.FramerUnitSendsTheChunk := by
  unfold Obligations.FramerUnitSendsTheChunk
  refine fun t p q => ⟨fun hp => ?_, fun hp => ?_⟩
  · rw [frameUnit_of_fits hp, frameBody_eq]
    rfl
  · rw [frameUnit_of_long hp]
    exact ⟨rfl, rfl⟩

/-- Settles O30: a buffer within its bound fits the length field, so the length check passes. -/
theorem chunkEmitsTheBufferAsOneChunk : Obligations.ChunkEmitsTheBufferAsOneChunk := by
  unfold Obligations.ChunkEmitsTheBufferAsOneChunk
  refine ⟨decode_encode .chunk, fun s hf => exec_of_fault hf (by decide), fun s hf hle => ⟨?_, ?_⟩⟩
  · rw [exec_chunk_of_clear hf, chunkBuffer_of_fits (hle.trans_lt ibufCap_lt)]
    rfl
  · exact frame_length (be32_length s.tag) s.ibuf

end Sys2Proof.Machine
end

section
/-! PROOFS. The size of the raw scanline buffer, and its bytes by place (rules R121, R124). -/

namespace Sys2Proof.Machine

/-- The raw form is `H` rows of one stride each (R121, R124). -/
theorem scan_length {w h : Word} {pix : List Byte} (hp : pix.length = pixelBytes w h) :
    (scan w h pix).length = h.toNat * rowStride w := by
  have hrows : ∀ b ∈ (List.range h.toNat).map (scanRow w pix), b.length = rowStride w :=
    List.forall_mem_map.2 fun i hi => scanRow_length (row_inside hp (List.mem_range.1 hi))
  rw [scan, List.flatMap_def, List.length_flatten, List.map_congr_left hrows, List.map_const', List.sum_replicate_nat,
    List.length_map, List.length_range]

/-- The raw form is `H` bytes longer than the pixel buffer (R124). -/
theorem scan_length_eq_add {w h : Word} {pix : List Byte} (hp : pix.length = pixelBytes w h) :
    (scan w h pix).length = pix.length + h.toNat := by
  rw [scan_length hp, hp, pixelBytes_eq_rows, rowStride, Nat.mul_add, Nat.mul_one, Nat.add_comm]

/-- The smallest image is one filter byte and one pixel (R124). -/
theorem five_le_scan_length {w h : Word} {pix : List Byte} (hw : 1 ≤ w.toNat) (hh : 1 ≤ h.toNat)
    (hp : pix.length = pixelBytes w h) : 5 ≤ (scan w h pix).length := by
  have hstride : 5 ≤ rowStride w := by
    rw [rowStride]
    omega
  rw [scan_length hp]
  exact Nat.mul_le_mul hh hstride

/-- Row `y` of the raw form begins with the filter byte 0 (R121). -/
theorem scan_getElem?_filter {w h : Word} {pix : List Byte} (hp : pix.length = pixelBytes w h) {y : Nat} (hy : y < h.toNat) :
    (scan w h pix)[y * rowStride w]? = some 0x00 := by
  obtain ⟨rest, hrest⟩ := drop_scan hp hy
  rw [← List.head?_drop, hrest]
  rfl

/-- Settles O31: rows of one stride, joined; row `y` is its filter byte and the pixel bytes of its place. -/
theorem scanPutsAZeroBeforeEachRow : Obligations.ScanPutsAZeroBeforeEachRow := by
  unfold Obligations.ScanPutsAZeroBeforeEachRow
  refine ⟨fun w h pix hw hh hp => ?_, by decide, fun pix hp => scan_length hp⟩
  refine ⟨scan_length hp, scan_length_eq_add hp, five_le_scan_length hw hh hp, ?_, fun y hy => ?_⟩
  · simp only [Nat.mul_assoc]
    rfl
  · rw [Nat.mul_assoc]
    exact ⟨scan_getElem?_filter hp hy, fun i hi =>
      ⟨scan_getElem? hp hy hi, (Nat.add_lt_add_left hi _).trans_le (row_inside hp hy)⟩⟩

end Sys2Proof.Machine
end

section
/-! PROOFS. What `ENCODE` asks the DEFLATE unit, and that nothing else asks it (rules R128, R130, R149). -/

namespace Sys2Proof.Machine

/-- Past its two preconditions `ENCODE` makes one transaction of the whole raw buffer, whatever the answer (R128). -/
theorem encodeImage_asksOnce (D : Codec) {s : State} (hw : s.width ≠ 0) (hh : s.height ≠ 0)
    (hl : s.ibuf.length = pixelBytes s.width s.height) :
    (encodeImage D s).sent = s.sent ++ [rawImage s] ∧ (encodeImage D s).draws = s.draws.tail := by
  obtain ⟨hz, _⟩ | ⟨_, _, ⟨hne, _⟩ | ⟨_, ⟨_, _, e⟩ | ⟨_, _, e⟩ | ⟨_, _, e⟩⟩⟩ := encodeImage_cases D s
  · exact absurd hz (not_or.2 ⟨hw, hh⟩)
  · exact absurd hl hne
  all_goals
    rw [e]
    exact ⟨rfl, rfl⟩

/-- A precondition that fails ends `ENCODE` before the unit is asked (R128, R146, R147). -/
theorem encodeImage_sameUnit (D : Codec) {s : State}
    (hn : ¬ (s.width ≠ 0 ∧ s.height ≠ 0 ∧ s.ibuf.length = pixelBytes s.width s.height)) :
    (encodeImage D s).sent = s.sent ∧ (encodeImage D s).draws = s.draws := by
  obtain ⟨_, e⟩ | ⟨hw, hh, ⟨_, e⟩ | ⟨hl, _⟩⟩ := encodeImage_cases D s
  · rw [e]
    exact ⟨rfl, rfl⟩
  · rw [e]
    exact ⟨rfl, rfl⟩
  · exact absurd ⟨hw, hh, hl⟩ hn

/-- A push does not ask the unit (R128, R165). -/
theorem pushByte_sameUnit (cap : Nat) (s : State) (b : Byte) :
    (pushByte cap s b).sent = s.sent ∧ (pushByte cap s b).draws = s.draws := by
  obtain ⟨_, e⟩ | ⟨_, e⟩ := pushByte_cases cap s b <;> rw [e] <;> exact ⟨rfl, rfl⟩

/-- Settles O35: the fault is entered from the state after the one request. -/
theorem encodeHandsTheUnitsErrorOn : Obligations.EncodeHandsTheUnitsErrorOn := by
  unfold Obligations.EncodeHandsTheUnitsErrorOn
  intro s e hf hw hh hl hd
  rw [exec_encode_of_clear hf, encodeImage_of_err _ hw hh hl hd]
  rfl

/-- Settles O36: of the cases of `HostEffect` only the command `ENCODE` touches the unit, and only past its preconditions. -/
theorem oneRequestPerEncode : Obligations.OneRequestPerEncode := by
  unfold Obligations.OneRequestPerEncode
  refine ⟨fun s hf hw hh hl => ⟨_, ?_, encodeImage_asksOnce Config.codec hw hh hl⟩, fun a s t h hn => ?_⟩
  · exact (hostAct_commandAction .encode s).trans (exec_encode_of_clear hf)
  · cases hostAct_effect h with
    | unchanged | read | reset | illegal | width | height | tag => exact ⟨rfl, rfl⟩
    | push v => exact pushByte_sameUnit ..
    | @command i hf =>
      by_cases he : i = .encode
      · subst he
        exact encodeImage_sameUnit _ fun hpre => hn ⟨rfl, hf, hpre⟩
      · exact (commandEffect_sameUnit he s).symm

end Sys2Proof.Machine
end

section
/-! PROOFS. The two precondition faults of `ENCODE`, and what it emits: a fault and nothing, or one whole file (rules R144, R146, R147,
R156). -/

namespace Sys2Proof.Machine

/-- Settles O34: the size both faults record is exact, and 0 where a dimension is. -/
theorem encodePreconditionFaults : Obligations.EncodePreconditionFaults := by
  unfold Obligations.EncodePreconditionFaults
  refine fun s hf => ⟨fun hz => ?_, fun hw hh hl => ?_, toNat_ofNat_pixelBytes s.width s.height⟩
  · rw [exec_encode_of_clear hf, encodeImage_of_zero _ hz, State.raiseSize, pixelBytes_of_zero hz]
    rfl
  · rw [exec_encode_of_clear hf, encodeImage_of_mismatch _ hw hh hl]
    rfl

/-- `ENCODE` on a clear block faults and emits nothing, or every test passes and it emits the file of the image (R144, R156). -/
theorem encodeImage_faults_or_delivers (D : Codec) {s : State} (hf : s.fault = false) :
    ((encodeImage D s).fault = true ∧ (encodeImage D s).out = s.out) ∨
    ((encodeImage D s).fault = false ∧
      (encodeImage D s).out = s.out ++ [png s.width s.height (D.deflate (rawImage s))] ∧
      s.width ≠ 0 ∧ s.height ≠ 0 ∧ s.ibuf.length = pixelBytes s.width s.height ∧
      (D.deflate (rawImage s)).length < 2 ^ 32) := by
  obtain ⟨_, e⟩ | ⟨hw, hh, ⟨_, e⟩ | ⟨hl, ⟨_, _, e⟩ | ⟨_, _, e⟩ | ⟨_, hc, e⟩⟩⟩ := encodeImage_cases D s
  case inr.inr.inr.inr =>
    rw [e]
    exact .inr ⟨hf, rfl, hw, hh, hl, hc⟩
  all_goals
    rw [e]
    exact .inl ⟨rfl, rfl⟩

end Sys2Proof.Machine
end

section
/-! PROOFS. The phases of the sequencer against the one step of `ENCODE`: from the last phase back to the first, what is left of the
sequence does what is left of the one step (rules R145 to R155). -/

namespace Sys2Proof.Machine

/-- An idle sequencer stays as it is (R27, R145). -/
theorem runPhases_of_idle (D : Codec) (n : Nat) {q : Seq} (h : q.st.phase = .idle) : runPhases D n q = q := by
  induction n with
  | zero => rfl
  | succ n ih =>
    have hq : phaseStep D q = q := by rw [phaseStep, h]
    rw [runPhases, hq, ih]

/-- A sequence ends in the state in which one of its phases leaves the sequencer idle (R145). -/
theorem runPhases_succ_st {D : Codec} {q : Seq} {t : State} (n : Nat) (h : (phaseStep D q).st = t) (ht : t.phase = .idle) :
    (runPhases D (n + 1) q).st = t := by
  subst h
  rw [runPhases, runPhases_of_idle D n ht]

/-! The four phases that send bytes (R151 to R154), from a state `s` and the packet `pkt` begun. -/

theorem phaseStep_sig (D : Codec) (s : State) (raw c pkt : List Byte) :
    phaseStep D ⟨s.setPhase .sig, raw, c, pkt⟩ = ⟨s.setPhase .ihdr, raw, c, pkt ++ pngSig⟩ := rfl

theorem phaseStep_ihdr (D : Codec) (s : State) (raw c pkt : List Byte) :
    phaseStep D ⟨s.setPhase .ihdr, raw, c, pkt⟩ =
      ⟨(s.checksum (tagIHDR ++ ihdr s.width s.height)).setPhase .idat, raw, c,
        pkt ++ frame tagIHDR (ihdr s.width s.height)⟩ :=
  congrArg (Seq.go · .idat) (frameBody_eq ..)

theorem phaseStep_idat (D : Codec) (s : State) (raw c pkt : List Byte) :
    phaseStep D ⟨s.setPhase .idat, raw, c, pkt⟩ =
      ⟨(s.checksum (tagIDAT ++ c)).setPhase .iend, raw, c, pkt ++ frame tagIDAT c⟩ :=
  congrArg (Seq.go · .iend) (frameBody_eq ..)

theorem phaseStep_iend (D : Codec) (s : State) (raw c pkt : List Byte) :
    phaseStep D ⟨s.setPhase .iend, raw, c, pkt⟩ =
      ⟨((s.checksum tagIEND).addPacket (pkt ++ frame tagIEND [])).setPhase .idle, raw, c, []⟩ :=
  congrArg (fun q : Seq => q.emitLast.go .idle) (frameBody_eq ..)

/-- A checksum leaves nothing of the one before it (R100). -/
theorem State.checksum_checksum (s : State) (m m' : List Byte) : (s.checksum m).checksum m' = s.checksum m' := rfl

/-- `SIG` to `IEND` deliver the file, and leave the engine with the checksum of the IEND chunk (R144, R151 to R154). -/
theorem runPhases_sig (D : Codec) (n : Nat) {s : State} (hp : s.phase = .idle) (raw c : List Byte) :
    (runPhases D (n + 4) ⟨s.setPhase .sig, raw, c, []⟩).st = s.deliverPng c := by
  have hidle : s.deliverPng c = (s.deliverPng c).setPhase .idle := by
    rw [State.setPhase, ← hp]
    rfl
  simp only [runPhases, phaseStep_sig, phaseStep_ihdr, phaseStep_idat, phaseStep_iend, State.checksum_checksum,
    List.nil_append]
  rw [runPhases_of_idle D n rfl, hidle, State.deliverPng, State.checksum, crcAcc_tagIEND, crc32_tagIEND]
  rfl

/-- `CHK_PAY` and the phases after it are the last test of R144 and what follows it (R150). -/
theorem runPhases_chkPay (D : Codec) (n : Nat) {s : State} (hp : s.phase = .idle) (raw c : List Byte) :
    (runPhases D (n + 5) ⟨s.setPhase .chkPay, raw, c, []⟩).st =
      if 2 ^ 32 ≤ c.length then s.raisePayloadOverflow else s.deliverPng c := by
  split
  · next hc => exact runPhases_succ_st _ (congrArg Seq.st (if_pos hc)) rfl
  · next hc =>
    have hgo : phaseStep D ⟨s.setPhase .chkPay, raw, c, []⟩ = ⟨s.setPhase .sig, raw, c, []⟩ := if_neg hc
    rw [runPhases, hgo, runPhases_sig D n hp]

/-! `DEFL` by the unit's answer (R149). -/

theorem phaseStep_defl_of_err (D : Codec) {q : Seq} {e : Word} (hp : q.st.phase = .defl) (hd : q.st.nextDraw = .err e) :
    phaseStep D q = q.abandon ((q.st.useDraw q.raw).raise .compressFail 0 e) := by
  simp only [phaseStep, hp, dflReply, hd]

theorem phaseStep_defl_of_ok (D : Codec) {q : Seq} (hp : q.st.phase = .defl) (hd : q.st.nextDraw = .ok) :
    phaseStep D q = Seq.go { q with st := q.st.useDraw q.raw, cmp := D.deflate q.raw } .chkPay := by
  simp only [phaseStep, hp, dflReply, hd]

/-- Past the two tests of the size, `SCAN` and the phases after it are what follows those tests in R144 (R148, R149). -/
theorem runPhases_scan (D : Codec) (n : Nat) {s : State} (hp : s.phase = .idle) (hw : s.width ≠ 0) (hh : s.height ≠ 0)
    (hl : s.ibuf.length = pixelBytes s.width s.height) (raw cmp : List Byte) :
    (runPhases D (n + 7) ⟨s.setPhase .scan, raw, cmp, []⟩).st = encodeImage D s := by
  have hscan : phaseStep D ⟨s.setPhase .scan, raw, cmp, []⟩ = ⟨s.setPhase .defl, rawImage s, cmp, []⟩ := rfl
  rw [runPhases, hscan]
  cases hd : s.nextDraw with
  | err e =>
    have hdefl := phaseStep_defl_of_err D (q := ⟨s.setPhase .defl, rawImage s, cmp, []⟩) rfl hd
    rw [encodeImage_of_err D hw hh hl hd]
    exact runPhases_succ_st _ (congrArg Seq.st hdefl) rfl
  | ok =>
    have hdefl := phaseStep_defl_of_ok D (q := ⟨s.setPhase .defl, rawImage s, cmp, []⟩) rfl hd
    rw [encodeImage_of_ok D hw hh hl hd, runPhases, hdefl]
    exact runPhases_chkPay D n (s := s.useDraw (rawImage s)) hp _ _

/-- `CHK_LEN` is the second test of R144, for an image with both dimensions (R147). -/
theorem runPhases_chkLen (D : Codec) (n : Nat) {s : State} (hp : s.phase = .idle) (hw : s.width ≠ 0) (hh : s.height ≠ 0)
    (raw cmp : List Byte) : (runPhases D (n + 8) ⟨s.setPhase .chkLen, raw, cmp, []⟩).st = encodeImage D s := by
  by_cases hl : s.ibuf.length = pixelBytes s.width s.height
  · have hgo : phaseStep D ⟨s.setPhase .chkLen, raw, cmp, []⟩ = ⟨s.setPhase .scan, raw, cmp, []⟩ := if_neg (not_not.2 hl)
    rw [runPhases, hgo, runPhases_scan D n hp hw hh hl]
  · rw [encodeImage_of_mismatch D hw hh hl]
    exact runPhases_succ_st _ (congrArg Seq.st (if_pos hl)) rfl

/-- The sequencer from its start is the one step: `CHK_DIM` is the first test of R144 (R146, R155). -/
theorem runPhases_startEncode (D : Codec) (n : Nat) {s : State} (hp : s.phase = .idle) (raw cmp : List Byte) :
    (runPhases D (n + 9) (startEncode s raw cmp)).st = encodeImage D s := by
  by_cases hz : s.width = 0 ∨ s.height = 0
  · rw [encodeImage_of_zero D hz]
    exact runPhases_succ_st _ (congrArg Seq.st (if_pos hz)) rfl
  · have hgo : phaseStep D (startEncode s raw cmp) = ⟨s.setPhase .chkLen, raw, cmp, []⟩ := if_neg hz
    obtain ⟨hw, hh⟩ := not_or.1 hz
    rw [runPhases, hgo, runPhases_chkLen D n hp hw hh]

/-- Settles O38: nine phases suffice, and an idle sequencer stays as it is. -/
theorem phasesRefineTheOneStep : Obligations.PhasesRefineTheOneStep := by
  unfold Obligations.PhasesRefineTheOneStep
  refine ⟨fun D s raw cmp n _ hp hn => ?_, fun s raw cmp hf hp => ?_⟩
  · obtain ⟨m, rfl⟩ := Nat.exists_eq_add_of_le' hn
    exact runPhases_startEncode D m hp raw cmp
  · rw [exec_encode_of_clear hf, runPhases_startEncode Config.codec 0 hp]

/-! The phases that can fault, and the phases that send (R156). -/

/-- A phase before `SIG` sends nothing (R145 to R150, R156). -/
theorem phaseStep_sends_nothing (D : Codec) {q : Seq} (hq : q.st.phase ∈ [Phase.chkDim, .chkLen, .scan, .defl, .chkPay])
    (hpkt : q.pkt = []) : (phaseStep D q).pkt = [] ∧ (phaseStep D q).st.out = q.st.out := by
  unfold phaseStep
  cases hp : q.st.phase with
  | chkDim | chkLen | defl | chkPay =>
    dsimp only
    split
    · exact ⟨rfl, rfl⟩
    · exact ⟨hpkt, rfl⟩
  | scan => exact ⟨hpkt, rfl⟩
  | idle | sig | ihdr | idat | iend =>
    rw [hp] at hq
    exact absurd hq (by decide)

theorem Seq.go_cause (q : Seq) (p : Phase) : (q.go p).st.cause = q.st.cause := rfl
theorem Seq.emitLast_cause (q : Seq) : q.emitLast.st.cause = q.st.cause := rfl

/-- The chunk framer, past its length check, records no cause (R112). -/
theorem frameBody_cause (t p : List Byte) (q : Seq) : (frameBody t p q).st.cause = q.st.cause := by
  rw [frameBody_eq]
  rfl

/-- A phase from `SIG` on enters no fault (R151 to R154, R156). -/
theorem phaseStep_enters_no_fault (D : Codec) {q : Seq} (hq : q.st.phase ∈ [Phase.sig, .ihdr, .idat, .iend]) :
    (phaseStep D q).st.fault = q.st.fault ∧ (phaseStep D q).st.cause = q.st.cause := by
  unfold phaseStep
  cases hp : q.st.phase with
  | sig => exact ⟨rfl, rfl⟩
  | ihdr | idat => exact ⟨by rw [Seq.go_fault, frameBody_fault], by rw [Seq.go_cause, frameBody_cause]⟩
  | iend =>
    exact ⟨by rw [Seq.go_fault, Seq.emitLast_fault, frameBody_fault], by rw [Seq.go_cause, Seq.emitLast_cause, frameBody_cause]⟩
  | idle | chkDim | chkLen | scan | defl | chkPay =>
    rw [hp] at hq
    exact absurd hq (by decide)

/-- Settles O39: the faults stand before `SIG`, the bytes after it, and the one step faults or delivers. -/
theorem encodeIsAllOrNothing : Obligations.EncodeIsAllOrNothing := by
  unfold Obligations.EncodeIsAllOrNothing
  refine ⟨fun D _ => phaseStep_sends_nothing D, fun D _ => phaseStep_enters_no_fault D, fun s t hf h => ?_⟩
  cases (exec_encode_of_clear hf).symm.trans h
  obtain hfault | ⟨hclear, hout, _, _, _, hc⟩ := encodeImage_faults_or_delivers Config.codec hf
  · exact .inl hfault
  · exact .inr ⟨hclear, _, hc, hout⟩

end Sys2Proof.Machine
end

section
/-! PROOFS. The file read back: its three chunks by the chunk decoder, and the pixels from its IDAT chunk (rules R113, R157, R158). -/

namespace Sys2Proof.Machine

theorem ChunkAt.tag_length {l t p : List Byte} {k : Nat} (h : ChunkAt l k t p) : t.length = 4 := by
  obtain ⟨_, _, _, _, ht⟩ := h
  exact ht

/-- A chunk that stands in `l`, cut out of it. -/
theorem ChunkAt.take_drop {l t p : List Byte} {k : Nat} (h : ChunkAt l k t p) :
    (l.drop k).take (12 + p.length) = frame t p := by
  obtain ⟨_, _, hl, hk, ht⟩ := h
  exact take_drop_of_eq_append hl hk (frame_length ht p)

/-- A chunk that stands in `l` passes the decoder (R113). -/
theorem ChunkAt.unchunk_eq {l t p : List Byte} {k : Nat} (h : ChunkAt l k t p) (hp : p.length < 2 ^ 32) :
    unchunk ((l.drop k).take (12 + p.length)) = some (t, p) := by
  rw [h.take_drop, unchunk_frame h.tag_length hp]

/-- The IEND chunk is the last twelve bytes of the file (R143, R157). -/
theorem png_drop_iend (w h : Word) (c : List Byte) : (png w h c).drop (45 + c.length) = frame tagIEND [] := by
  have hlen : ((png w h c).drop (45 + c.length)).length ≤ 12 := by
    rw [List.length_drop, png_length]
    omega
  rw [← List.take_of_length_le hlen]
  exact (png_iend w h c).take_drop

/-- Settles O40: `ENCODE` emits nothing or a file, and a file is its signature and three chunks at known places. -/
theorem encodePacketsAreValidFiles : Obligations.EncodePacketsAreValidFiles := by
  unfold Obligations.EncodePacketsAreValidFiles
  refine ⟨fun s t hf h => ?_, fun w h c hc => ⟨png_length w h c, png_sig w h c, ?_, ?_, ?_⟩⟩
  · cases (exec_encode_of_clear hf).symm.trans h
    obtain ⟨_, hout⟩ | ⟨_, hout, _, _, _, hc⟩ := encodeImage_faults_or_delivers Config.codec hf
    · exact .inl hout
    · exact .inr ⟨_, hc, hout⟩
  · exact (png_ihdr w h c).unchunk_eq (p := ihdr w h) (by decide : 13 < 2 ^ 32)
  · exact (png_idat w h c).unchunk_eq hc
  · rw [png_drop_iend]
    exact unchunk_frame (p := []) rfl (by decide)

/-- The IDAT payload of a file, found by its own length field, is the compressed stream (R78, R158). -/
theorem png_idat_payload (w h : Word) {c : List Byte} (hc : c.length < 2 ^ 32) :
    ((png w h c).drop 41).take (readBe (((png w h c).drop 33).take 4)) = c := by
  rw [(png_idat w h c).readBe_length hc]
  exact (png_idat w h c).payload

/-- Settles O42: the payload is the deflated raw image; `inflate` undoes `deflate`, and `unscan` undoes `scan`. -/
theorem pixelsSurviveTheRoundTrip : Obligations.PixelsSurviveTheRoundTrip := by
  unfold Obligations.PixelsSurviveTheRoundTrip
  intro s t hf h
  cases (exec_encode_of_clear hf).symm.trans h
  obtain hfault | ⟨_, hout, _, _, hl, hc⟩ := encodeImage_faults_or_delivers Config.codec hf
  · exact .inl hfault
  · refine .inr ⟨_, rawImage s, hout, ?_, unscan_scan hl⟩
    rw [png_idat_payload _ _ hc, Config.codec.inflate_deflate]

end Sys2Proof.Machine
end

section
/-! PROOFS. The packets of `ENCODE` as a function of the image (rules R129, R159). -/

namespace Sys2Proof.Machine

/-- What `ENCODE` emits for an image the unit answers `ok` to: the file where every test of R144 passes, else nothing. -/
def imagePackets (D : Codec) (w h : Word) (pix : List Byte) : List (List Byte) :=
  if w ≠ 0 ∧ h ≠ 0 ∧ pix.length = pixelBytes w h ∧ (D.deflate (scan w h pix)).length < 2 ^ 32 then
    [png w h (D.deflate (scan w h pix))]
  else []

/-- Where the unit answers `ok`, what `ENCODE` emits and whether it faults depend on the image alone (R159). -/
theorem encodeImage_eq_imagePackets (D : Codec) {s : State} (hf : s.fault = false) (hd : s.nextDraw = .ok) :
    (encodeImage D s).out = s.out ++ imagePackets D s.width s.height s.ibuf ∧
      (encodeImage D s).fault = (imagePackets D s.width s.height s.ibuf).isEmpty := by
  unfold imagePackets
  split
  · next hpass =>
    obtain ⟨hw, hh, hl, hc⟩ := hpass
    rw [encodeImage_of_short D hw hh hl hd hc]
    exact ⟨rfl, hf⟩
  · next hfails =>
    obtain ⟨hfault, hout⟩ | ⟨_, _, hpass⟩ := encodeImage_faults_or_delivers D hf
    · exact ⟨by rw [hout, List.append_nil], hfault⟩
    · exact absurd hpass hfails

/-- Settles O43: both commands emit the packets of the one image. -/
theorem encodeIsDeterministic : Obligations.EncodeIsDeterministic := by
  unfold Obligations.EncodeIsDeterministic
  intro s s' t t' hf hf' hw hh hb hd hd' h h'
  cases (exec_encode_of_clear hf).symm.trans h
  cases (exec_encode_of_clear hf').symm.trans h'
  obtain ⟨hout, hfault⟩ := encodeImage_eq_imagePackets Config.codec hf hd
  obtain ⟨hout', hfault'⟩ := encodeImage_eq_imagePackets Config.codec hf' hd'
  rw [hw, hh, hb] at hout' hfault'
  exact ⟨hfault'.trans hfault.symm, _, hout, hout'⟩

end Sys2Proof.Machine
end

section
/-! PROOFS. Writes to the argument registers and pushes, on a clear block (rules R57, R163, R165). -/

namespace Sys2Proof.Machine

/-- A gated action has its effect on a clear block (R184). -/
theorem hostAct_gated_of_clear {a : HostAction} {s t : State} (h : hostAct a s = .next (unlessFaulted s t))
    (hf : s.fault = false) : hostAct a s = .next t := by
  rw [h, unlessFaulted_of_clear hf]

/-- Settles O9: each of the three writes is a register update behind the gate of the fault state. -/
theorem argumentRegistersTakeAnyWord : Obligations.ArgumentRegistersTakeAnyWord := by
  unfold Obligations.ArgumentRegistersTakeAnyWord
  exact fun s v hf => ⟨hostAct_gated_of_clear (hostAct_writeWidth v s) hf, hostAct_gated_of_clear (hostAct_writeHeight v s) hf,
    hostAct_gated_of_clear (hostAct_writeTag v s) hf⟩

/-- The pushed byte is the word modulo 256 (R57). -/
theorem pushedByte_eq_ofNat (v : Word) : pushedByte v = BitVec.ofNat 8 v.toNat := by
  rw [pushedByte, BitVec.extractLsb', Nat.shiftRight_zero]

/-- Settles O11: a write to `IDATA` is `pushByte`, by its two cases; a list of pushes that fits is an induction over its bytes. -/
theorem pushAppendsTheLowByteOrOverflows : Obligations.PushAppendsTheLowByteOrOverflows := by
  unfold Obligations.PushAppendsTheLowByteOrOverflows
  refine ⟨fun s v hf => ?_, fun s bs hf hfit => runActions_pushes_of_fits hf hfit⟩
  rw [hostAct_gated_of_clear (hostAct_push v s) hf, ← pushedByte_eq_ofNat]
  obtain ⟨hfull, e⟩ | ⟨hroom, e⟩ := pushByte_cases Config.ibufCap s (pushedByte v) <;> rw [e]
  · exact ⟨fun hroom => absurd hfull hroom, fun _ => rfl⟩
  · exact ⟨fun _ => rfl, fun hfull => absurd hfull hroom⟩

end Sys2Proof.Machine
end

section
/-! PROOFS. `NOP` and `IN.CLR` (rules R160, R162). -/

namespace Sys2Proof.Machine

/-- Settles O15: an action without effect leaves the state alone on either side of the gate. -/
theorem nopChangesNothing : Obligations.NopChangesNothing := by
  unfold Obligations.NopChangesNothing
  exact ⟨decode_encode .nop, fun s => (exec_eq_unlessFaulted (by decide) s).trans (congrArg _ (ite_self s))⟩

/-- Settles O16: the effect behind the gate is the empty buffer, whose length is 0. -/
theorem inClrEmptiesTheBuffer : Obligations.InClrEmptiesTheBuffer := by
  unfold Obligations.InClrEmptiesTheBuffer
  exact ⟨decode_encode .inClr, fun s hf => ⟨exec_of_clear hf (by decide), rfl⟩⟩

end Sys2Proof.Machine
end

section
/-! PROOFS. What a faulted block still does: it answers reads, and it obeys a reset (rules R168, R184). -/

namespace Sys2Proof.Machine

/-- On a faulted block an action is ignored, or is a read, which is recorded, or is a reset (R184). -/
theorem HostEffect.cases_of_fault {a : HostAction} {s t : State} (h : HostEffect s a t) (hs : s.fault = true) :
    t = s ∨ (∃ off, a = .regRead .word off ∧ t = s.addRead (readAt s off)) ∨
      ((a = .hardReset ∨ a = .regWrite .word 0x00 0x01000000) ∧ t = s.toReset) := by
  cases h with
  | unchanged => exact .inl rfl
  | read off => exact .inr (.inl ⟨off, rfl, rfl⟩)
  | reset ha => exact .inr (.inr ⟨ha, rfl⟩)
  | command hf | illegal hf | width _ hf | height _ hf | tag _ hf | push _ hf => exact absurd (hs.symm.trans hf) (by decide)

/-- A faulted block ignores every write but that of the word of `RESET` to `CMD` (R168, R184). -/
theorem hostAct_write_of_fault {s : State} {off : Nat} (hs : s.fault = true) (ha : off % 4 = 0) (hle : off ≤ 0xFC) {v : Word}
    (hn : ¬ (off = 0x00 ∧ v = 0x01000000)) : hostAct (.regWrite .word off v) s = .next s := by
  obtain ⟨t, ht⟩ := hostAct_completes (a := .regWrite .word off v) (accessLegal_iff.2 ⟨rfl, ha, hle⟩) s
  obtain rfl | ⟨_, hread, _⟩ | ⟨hreset | hreset, _⟩ := (hostAct_effect ht).cases_of_fault hs
  · exact ht
  · cases hread
  · cases hreset
  · cases hreset
    exact absurd ⟨rfl, rfl⟩ hn

/-- Settles O46: a step is one host action; one that is ignored, or a read, leaves the block alone. -/
theorem faultStateIsAbsorbing : Obligations.FaultStateIsAbsorbing := by
  unfold Obligations.FaultStateIsAbsorbing
  refine ⟨fun s off v hs ha hle hn => hostAct_write_of_fault hs ha hle hn, fun s t hs h => ?_⟩
  have hsame : sameBlock s s := ⟨rfl, rfl, rfl, rfl, rfl, rfl, rfl, rfl, rfl, rfl, rfl, rfl⟩
  obtain ⟨_, rfl⟩ | ⟨a, rest, htodo, hact⟩ := step_cases h
  · exact .inl hsame
  obtain rfl | ⟨_, _, rfl⟩ | ⟨ha, rfl⟩ := (hostAct_effect hact).cases_of_fault hs
  · exact .inl hsame
  · exact .inl hsame
  · refine .inr ⟨rest, ha.imp ?_ ?_, rfl, rfl⟩ <;>
      rintro rfl <;> exact htodo

end Sys2Proof.Machine
end

section
/-! PROOFS. What leaves the two registers of the engine alone (rules R22, R23, R181, R210). -/

namespace Sys2Proof.Machine

/-- `CRC` and `RESULT` are the same in both states. -/
def SameEngine (s t : State) : Prop := t.crc = s.crc ∧ t.result = s.result

/-- A push does not touch the engine, whether it fits or overflows (R165, R181). -/
theorem pushByte_sameEngine (cap : Nat) (s : State) (b : Byte) : SameEngine s (pushByte cap s b) := by
  obtain ⟨_, e⟩ | ⟨_, e⟩ := pushByte_cases cap s b <;> rw [e] <;> exact ⟨rfl, rfl⟩

/-- `CHUNK` writes the engine only where it sends its packet, and then it does not fault (R114, R181). -/
theorem chunkBuffer_sameEngine_of_raises {s : State} (hf : s.fault = false) (ht : (chunkBuffer s).fault = true) :
    SameEngine s (chunkBuffer s) := by
  obtain ⟨_, e⟩ | ⟨_, e⟩ := chunkBuffer_cases s <;> rw [e] at ht ⊢
  · exact ⟨rfl, rfl⟩
  · exact absurd (ht.symm.trans hf) (by decide)

/-- `ENCODE` writes the engine only where it sends its packet, and then it does not fault (R144, R181). -/
theorem encodeImage_sameEngine_of_raises (D : Codec) {s : State} (hf : s.fault = false)
    (ht : (encodeImage D s).fault = true) : SameEngine s (encodeImage D s) := by
  obtain ⟨_, e⟩ | ⟨_, _, ⟨_, e⟩ | ⟨_, ⟨_, _, e⟩ | ⟨_, _, e⟩ | ⟨_, _, e⟩⟩⟩ := encodeImage_cases D s <;> rw [e] at ht ⊢
  case inr.inr.inr.inr => exact absurd (ht.symm.trans hf) (by decide)
  all_goals exact ⟨rfl, rfl⟩

/-- A command that raises a fault leaves the engine alone; of the commands only `CHUNK` and `ENCODE` can (R179, R181). -/
theorem commandEffect_sameEngine_of_raises {i : Instr} {s : State} (hf : s.fault = false)
    (ht : (commandEffect i s).fault = true) : SameEngine s (commandEffect i s) := by
  cases i with
  | chunk => exact chunkBuffer_sameEngine_of_raises hf ht
  | encode => exact encodeImage_sameEngine_of_raises _ hf ht
  | reset => cases ht
  | nop | inClr | crcInit | crcByte _ | crcFin | crc32 => exact absurd (ht.symm.trans hf) (by decide)

/-- An action that is neither the reset input nor a write to `CMD` leaves the engine alone (R210). -/
theorem HostEffect.sameEngine {a : HostAction} {s t : State} (h : HostEffect s a t) (hr : a ≠ .hardReset)
    (hc : ∀ v, a ≠ .regWrite .word 0x00 v) : SameEngine s t := by
  cases h with
  | unchanged | read | width | height | tag => exact ⟨rfl, rfl⟩
  | push v => exact pushByte_sameEngine ..
  | reset ha => exact (ha.elim hr (hc _)).elim
  | command | illegal => exact absurd rfl (hc _)

/-- An action that raises a fault on a clear block leaves the engine alone (R181, R210). -/
theorem HostEffect.sameEngine_of_raises {a : HostAction} {s t : State} (h : HostEffect s a t) (hf : s.fault = false)
    (ht : t.fault = true) : SameEngine s t := by
  cases h with
  | unchanged | read | width | height | tag | illegal => exact ⟨rfl, rfl⟩
  | push v => exact pushByte_sameEngine ..
  | reset => cases ht
  | command => exact commandEffect_sameEngine_of_raises hf ht

/-- `NOP` and `IN.CLR` leave the engine alone, on a clear and on a faulted block (R160, R162). -/
theorem exec_sameEngine {i : Instr} {s t : State} (hi : i = .nop ∨ i = .inClr) (h : exec i s = .next t) : SameEngine s t := by
  obtain rfl | rfl := hi <;> cases h <;> exact unlessFaulted_keeps (P := SameEngine s) ⟨rfl, rfl⟩ fun _ => ⟨rfl, rfl⟩

/-- Settles O51: by the cases of `HostEffect` for the host's actions, and by the gate for the two commands. -/
theorem onlyCommandsDisturbTheEngine : Obligations.OnlyCommandsDisturbTheEngine := by
  unfold Obligations.OnlyCommandsDisturbTheEngine
  exact ⟨fun _ _ _ h hr hc => (hostAct_effect h).sameEngine hr hc, fun _ _ _ hf h ht => (hostAct_effect h).sameEngine_of_raises hf ht,
    fun _ _ _ hi h => exec_sameEngine hi h⟩

end Sys2Proof.Machine
end

section
/-! PROOFS. Every way into the fault state: which action raises which cause, and what fault entry writes (rules R175 to R182). -/

namespace Sys2Proof.Machine

/-- Settles O12: a word that does not decode takes the error branch of a write to `CMD`, behind the gate of the fault state. -/
theorem illegalWordsRaiseIllegalCommand : Obligations.IllegalWordsRaiseIllegalCommand := by
  unfold Obligations.IllegalWordsRaiseIllegalCommand
  intro s v hf hv
  obtain ⟨i, hi, _⟩ | ⟨_, _, e⟩ := writeCmd_cases v s
  · exact absurd ⟨i, hi⟩ (decode_toOption_eq_none_iff.1 hv)
  · exact hostAct_gated_of_clear e hf

/-- The four causes of `ENCODE` (R178, R179). -/
def encodeCauses : List Cause := [.badDimension, .lengthMismatch, .compressFail, .payloadOverflow]

/-- `CanRaise s a c`: the action `a` on the clear block `s` may raise `c`; the table of R179, with the overflow of `CHUNK` that the
bound of the buffer makes unreachable (R114). -/
inductive CanRaise (s : State) : HostAction → Cause → Prop
  | encode {c : Cause} (hc : c ∈ encodeCauses) : CanRaise s (.regWrite .word 0x00 0x30000000) c
  | chunk (hl : 2 ^ 32 ≤ s.ibuf.length) : CanRaise s (.regWrite .word 0x00 0x20000000) .payloadOverflow
  | illegal {v : Word} (hv : (decode v).toOption = none) : CanRaise s (.regWrite .word 0x00 v) .illegalCommand
  | push {v : Word} (hl : s.ibuf.length = Config.ibufCap) : CanRaise s (.regWrite .word 0x34 v) .inputOverflow

/-- `PreciseFault s c t`: `t` is `s` after the entry of a fault with cause `c`, but for the record of the DEFLATE unit (R181, R182). -/
def PreciseFault (s : State) (c : Cause) (t : State) : Prop :=
  t.cause = c ∧ t.phase = .idle ∧
  t = { s with
    fault := true, cause := t.cause, expect := t.expect, actual := t.actual, phase := .idle, draws := t.draws, sent := t.sent }

theorem State.raise_precise (s : State) (c : Cause) (e : Nat) (x : Word) : PreciseFault s c (s.raise c e x) := ⟨rfl, rfl, rfl⟩

/-- A fault entered after the request to the unit is as precise as one entered before it. -/
theorem State.useDraw_raise_precise (s : State) (raw : List Byte) (c : Cause) (e : Nat) (x : Word) :
    PreciseFault s c ((s.useDraw raw).raise c e x) := ⟨rfl, rfl, rfl⟩

/-- The cause raised is never the code of no fault (R176). -/
theorem CanRaise.ne_none {s : State} {a : HostAction} {c : Cause} (h : CanRaise s a c) : c ≠ .none := by
  cases h with
  | encode hc =>
    rintro rfl
    exact absurd hc (by decide)
  | chunk | illegal | push => decide

/-- Each test of `ENCODE` that fails raises its cause (R146 to R150); a file delivered is no fault. -/
theorem encodeImage_raises (D : Codec) {s : State} (hf : s.fault = false) (ht : (encodeImage D s).fault = true) :
    ∃ c ∈ encodeCauses, PreciseFault s c (encodeImage D s) := by
  obtain ⟨_, e⟩ | ⟨_, _, ⟨_, e⟩ | ⟨_, ⟨_, _, e⟩ | ⟨_, _, e⟩ | ⟨_, _, e⟩⟩⟩ := encodeImage_cases D s <;> rw [e] at ht ⊢
  · exact ⟨_, by decide, s.raise_precise ..⟩
  · exact ⟨_, by decide, s.raise_precise ..⟩
  · exact ⟨_, by decide, s.useDraw_raise_precise ..⟩
  · exact ⟨_, by decide, s.useDraw_raise_precise ..⟩
  · exact absurd (ht.symm.trans hf) (by decide)

/-- `CHUNK` raises only the overflow of the length field (R111, R114). -/
theorem chunkBuffer_raises {s : State} (hf : s.fault = false) (ht : (chunkBuffer s).fault = true) :
    2 ^ 32 ≤ s.ibuf.length ∧ PreciseFault s .payloadOverflow (chunkBuffer s) := by
  obtain ⟨hl, e⟩ | ⟨_, e⟩ := chunkBuffer_cases s <;> rw [e] at ht ⊢
  · exact ⟨hl, s.raise_precise ..⟩
  · exact absurd (ht.symm.trans hf) (by decide)

/-- A push raises only the overflow of a full buffer (R165). -/
theorem pushByte_raises {cap : Nat} {s : State} {b : Byte} (hf : s.fault = false) (ht : (pushByte cap s b).fault = true) :
    s.ibuf.length = cap ∧ PreciseFault s .inputOverflow (pushByte cap s b) := by
  obtain ⟨hl, e⟩ | ⟨_, e⟩ := pushByte_cases cap s b <;> rw [e] at ht ⊢
  · exact ⟨hl, s.raise_precise ..⟩
  · exact absurd (ht.symm.trans hf) (by decide)

/-- Of the commands only `CHUNK` and `ENCODE` raise a fault (R179). -/
theorem commandEffect_raises {i : Instr} {s : State} (hf : s.fault = false) (ht : (commandEffect i s).fault = true) :
    ∃ c, CanRaise s (.regWrite .word 0x00 (encode i)) c ∧ PreciseFault s c (commandEffect i s) := by
  cases i with
  | chunk =>
    obtain ⟨hl, hp⟩ := chunkBuffer_raises hf ht
    exact ⟨_, .chunk hl, hp⟩
  | encode =>
    obtain ⟨c, hc, hp⟩ := encodeImage_raises _ hf ht
    exact ⟨c, .encode hc, hp⟩
  | reset => cases ht
  | nop | inClr | crcInit | crcByte _ | crcFin | crc32 => exact absurd (ht.symm.trans hf) (by decide)

/-- An action that takes a clear block to a faulted one raises one of its causes, precisely (R179, R181, R182). -/
theorem HostEffect.raises {a : HostAction} {s t : State} (h : HostEffect s a t) (hf : s.fault = false) (ht : t.fault = true) :
    ∃ c, CanRaise s a c ∧ PreciseFault s c t := by
  cases h with
  | unchanged | read | width | height | tag => exact absurd (ht.symm.trans hf) (by decide)
  | reset => cases ht
  | command => exact commandEffect_raises hf ht
  | illegal _ hv => exact ⟨_, .illegal hv, s.raise_precise ..⟩
  | push =>
    obtain ⟨hl, hp⟩ := pushByte_raises hf ht
    exact ⟨_, .push hl, hp⟩

/-- Settles O48: the rows of `CanRaise`; that of `CHUNK` needs a buffer longer than any that keeps its bound (R20, R114). -/
theorem eachActionRaisesOnlyItsCauses : Obligations.EachActionRaisesOnlyItsCauses := by
  unfold Obligations.EachActionRaisesOnlyItsCauses
  intro a s t hf hle h ht
  obtain ⟨c, hraise, hc, _⟩ := (hostAct_effect h).raises hf ht
  cases hraise with
  | encode hmem => exact .inl ⟨rfl, hc ▸ hmem⟩
  | chunk hl => exact absurd (hle.trans_lt ibufCap_lt) (Nat.not_lt.2 hl)
  | @illegal v hv => exact .inr (.inl ⟨v, rfl, hv, hc⟩)
  | @push v hl => exact .inr (.inr ⟨v, rfl, hl, hc⟩)

/-- Settles O49: whatever the action, the fault is entered by `State.raise`, and its cause is one of the table's. -/
theorem faultsArePrecise : Obligations.FaultsArePrecise := by
  unfold Obligations.FaultsArePrecise
  intro a s t hf h ht
  obtain ⟨c, hraise, rfl, hprecise⟩ := (hostAct_effect h).raises hf ht
  exact ⟨hraise.ne_none, hprecise⟩

end Sys2Proof.Machine
end
